-- ==== Sys2Proof/Word.lean ====
section
/-!
DEFINITION. The bit-vector types of the chirp CHIP-8 core (00_scope.md R8, R9). Every architectural
value is an unsigned integer of a stated width; there is no signed quantity.
-/

namespace Sys2Proof

/-- 8 bits: a general register, a timer, a memory byte (R9). -/
abbrev Byte := BitVec 8

/-- 16 bits: the pc, the index register, a stack entry, an instruction word (R9). -/
abbrev Word := BitVec 16

/-- 4 bits: a register index (R22) or the immediate `n` (R92). -/
abbrev Nibble := BitVec 4

/-- The 4-bit index of a general register (R22): no index outside 0 to 15 can be formed. -/
abbrev RegIdx := BitVec 4

/-- 12 bits: the immediate `nnn` (R92). -/
abbrev Addr12 := BitVec 12

end Sys2Proof
end

