-- ==== Sys2Proof/Syntax.lean ====
section
/-!
DEFINITION. The instruction set (30_encoding.md R97): one constructor per row of
spec/opcode_table.json, in the table's order, with the fields of R92 at their exact widths.
-/

namespace Sys2Proof

/-- The 34 instructions. Each docstring gives the pattern, the mnemonic and the semantics rule. -/
inductive Instr where
  /-- 00E0 `CLS` (R210). -/
  | cls
  /-- 00EE `RET` (R140). -/
  | ret
  /-- 1NNN `JP nnn` (R141). -/
  | jp (nnn : Addr12)
  /-- 2NNN `CALL nnn` (R142). -/
  | call (nnn : Addr12)
  /-- 3XNN `SE Vx, nn` (R143). -/
  | seImm (x : RegIdx) (nn : Byte)
  /-- 4XNN `SNE Vx, nn` (R144). -/
  | sneImm (x : RegIdx) (nn : Byte)
  /-- 5XY0 `SE Vx, Vy` (R145). -/
  | seReg (x y : RegIdx)
  /-- 9XY0 `SNE Vx, Vy` (R146). -/
  | sneReg (x y : RegIdx)
  /-- 6XNN `LD Vx, nn` (R160). -/
  | ldImm (x : RegIdx) (nn : Byte)
  /-- 7XNN `ADD Vx, nn` (R161). -/
  | addImm (x : RegIdx) (nn : Byte)
  /-- 8XY0 `LD Vx, Vy` (R162). -/
  | ldReg (x y : RegIdx)
  /-- 8XY1 `OR Vx, Vy` (R163). -/
  | orReg (x y : RegIdx)
  /-- 8XY2 `AND Vx, Vy` (R164). -/
  | andReg (x y : RegIdx)
  /-- 8XY3 `XOR Vx, Vy` (R165). -/
  | xorReg (x y : RegIdx)
  /-- 8XY4 `ADD Vx, Vy` (R166). -/
  | addReg (x y : RegIdx)
  /-- 8XY5 `SUB Vx, Vy` (R167). -/
  | sub (x y : RegIdx)
  /-- 8XY6 `SHR Vx, Vy` (R172). -/
  | shr (x y : RegIdx)
  /-- 8XY7 `SUBN Vx, Vy` (R173). -/
  | subn (x y : RegIdx)
  /-- 8XYE `SHL Vx, Vy` (R174). -/
  | shl (x y : RegIdx)
  /-- ANNN `LD I, nnn` (R190). -/
  | ldI (nnn : Addr12)
  /-- BNNN `JP V0, nnn` (R147). -/
  | jpV0 (nnn : Addr12)
  /-- CXNN `RND Vx, nn` (R220). -/
  | rnd (x : RegIdx) (nn : Byte)
  /-- DXYN `DRW Vx, Vy, n` (R211). -/
  | drw (x y : RegIdx) (n : Nibble)
  /-- EX9E `SKP Vx` (R221). -/
  | skp (x : RegIdx)
  /-- EXA1 `SKNP Vx` (R222). -/
  | sknp (x : RegIdx)
  /-- FX07 `LD Vx, DT` (R223). -/
  | ldVxDt (x : RegIdx)
  /-- FX15 `LD DT, Vx` (R225). -/
  | ldDtVx (x : RegIdx)
  /-- FX18 `LD ST, Vx` (R226). -/
  | ldStVx (x : RegIdx)
  /-- FX1E `ADD I, Vx` (R191). -/
  | addIVx (x : RegIdx)
  /-- FX0A `LD Vx, K` (R224). -/
  | ldVxK (x : RegIdx)
  /-- FX29 `LD F, Vx` (R192). -/
  | ldFVx (x : RegIdx)
  /-- FX33 `LD B, Vx` (R193). -/
  | ldBVx (x : RegIdx)
  /-- FX55 `LD [I], Vx` (R194). -/
  | ldMemVx (x : RegIdx)
  /-- FX65 `LD Vx, [I]` (R195). -/
  | ldVxMem (x : RegIdx)
  deriving DecidableEq, Repr

end Sys2Proof
end

