-- ==== Sys2Proof/Decode.lean ====
section
/-!
DEFINITION. The decoder (30_encoding.md R90 to R105), total on any bytes, and after it the encoder and
the opcode map of R97 as a table of masks and matches.
-/

namespace Sys2Proof

/-- Why a sequence of bytes is not an instruction. -/
inductive DecodeError where
  /-- Fewer than the two bytes of an instruction (R90). Fetch never meets it: it always reads two. -/
  | truncated
  /-- The word matches no row of R97 (R98). -/
  | unrecognizedOpcode (w : Word)
  deriving DecidableEq, Repr

/-! ### The six fields (R92) -/

/-- `instr[15:12]`, the top nibble. -/
def fieldTop (w : Word) : Nibble := w.extractLsb' 12 4

/-- `x = instr[11:8]`. -/
def fieldX (w : Word) : RegIdx := w.extractLsb' 8 4

/-- `y = instr[7:4]`. -/
def fieldY (w : Word) : RegIdx := w.extractLsb' 4 4

/-- `n = instr[3:0]`. -/
def fieldN (w : Word) : Nibble := w.extractLsb' 0 4

/-- `nn = instr[7:0]`. -/
def fieldNN (w : Word) : Byte := w.extractLsb' 0 8

/-- `nnn = instr[11:0]`. -/
def fieldNNN (w : Word) : Addr12 := w.extractLsb' 0 12

/-! ### Dispatch (R95) -/

/-- Family 0, on `nnn`: only 0x00E0 and 0x00EE are instructions (R99). -/
def decodeFamily0 (w : Word) : Except DecodeError Instr :=
  if fieldNNN w = 0x0E0#12 then .ok .cls
  else if fieldNNN w = 0x0EE#12 then .ok .ret
  else .error (.unrecognizedOpcode w)

/-- Families 5 and 9, on `n`: the 0 of 5XY0 and 9XY0 is a function code that must match (R100, log 14). -/
def decodeSkipReg (w : Word) (i : Instr) : Except DecodeError Instr :=
  if fieldN w = 0x0#4 then .ok i else .error (.unrecognizedOpcode w)

/-- Family 8, on `n` (R97 rows 11 to 19, R175). -/
def decodeFamily8 (w : Word) : Except DecodeError Instr :=
  if fieldN w = 0x0#4 then .ok (.ldReg (fieldX w) (fieldY w))
  else if fieldN w = 0x1#4 then .ok (.orReg (fieldX w) (fieldY w))
  else if fieldN w = 0x2#4 then .ok (.andReg (fieldX w) (fieldY w))
  else if fieldN w = 0x3#4 then .ok (.xorReg (fieldX w) (fieldY w))
  else if fieldN w = 0x4#4 then .ok (.addReg (fieldX w) (fieldY w))
  else if fieldN w = 0x5#4 then .ok (.sub (fieldX w) (fieldY w))
  else if fieldN w = 0x6#4 then .ok (.shr (fieldX w) (fieldY w))
  else if fieldN w = 0x7#4 then .ok (.subn (fieldX w) (fieldY w))
  else if fieldN w = 0xE#4 then .ok (.shl (fieldX w) (fieldY w))
  else .error (.unrecognizedOpcode w)

/-- Family E, on `nn` (R97 rows 24, 25). -/
def decodeFamilyE (w : Word) : Except DecodeError Instr :=
  if fieldNN w = 0x9E#8 then .ok (.skp (fieldX w))
  else if fieldNN w = 0xA1#8 then .ok (.sknp (fieldX w))
  else .error (.unrecognizedOpcode w)

/-- Family F, on `nn` (R97 rows 26 to 34). -/
def decodeFamilyF (w : Word) : Except DecodeError Instr :=
  if fieldNN w = 0x07#8 then .ok (.ldVxDt (fieldX w))
  else if fieldNN w = 0x15#8 then .ok (.ldDtVx (fieldX w))
  else if fieldNN w = 0x18#8 then .ok (.ldStVx (fieldX w))
  else if fieldNN w = 0x1E#8 then .ok (.addIVx (fieldX w))
  else if fieldNN w = 0x0A#8 then .ok (.ldVxK (fieldX w))
  else if fieldNN w = 0x29#8 then .ok (.ldFVx (fieldX w))
  else if fieldNN w = 0x33#8 then .ok (.ldBVx (fieldX w))
  else if fieldNN w = 0x55#8 then .ok (.ldMemVx (fieldX w))
  else if fieldNN w = 0x65#8 then .ok (.ldVxMem (fieldX w))
  else .error (.unrecognizedOpcode w)

/-- Decoding is a pure function of the 16-bit word, total on all 65536 words (R105): primary dispatch
on the top nibble, secondary dispatch on `nnn`, `n` or `nn` (R95). The last case cannot arise: the top
nibble is below 16. -/
def decodeWord (w : Word) : Except DecodeError Instr :=
  match (fieldTop w).toNat with
  | 0x0 => decodeFamily0 w
  | 0x1 => .ok (.jp (fieldNNN w))
  | 0x2 => .ok (.call (fieldNNN w))
  | 0x3 => .ok (.seImm (fieldX w) (fieldNN w))
  | 0x4 => .ok (.sneImm (fieldX w) (fieldNN w))
  | 0x5 => decodeSkipReg w (.seReg (fieldX w) (fieldY w))
  | 0x6 => .ok (.ldImm (fieldX w) (fieldNN w))
  | 0x7 => .ok (.addImm (fieldX w) (fieldNN w))
  | 0x8 => decodeFamily8 w
  | 0x9 => decodeSkipReg w (.sneReg (fieldX w) (fieldY w))
  | 0xA => .ok (.ldI (fieldNNN w))
  | 0xB => .ok (.jpV0 (fieldNNN w))
  | 0xC => .ok (.rnd (fieldX w) (fieldNN w))
  | 0xD => .ok (.drw (fieldX w) (fieldY w) (fieldN w))
  | 0xE => decodeFamilyE w
  | 0xF => decodeFamilyF w
  | _ => .error (.unrecognizedOpcode w)

/-- A word from its two bytes, the byte at the lower address first: it is the high byte (R64, R91). -/
def wordOfBytes (hi lo : Byte) : Word := hi ++ lo

/-- The high byte of a word, the one at the lower address (R64). -/
def highByte (w : Word) : Byte := w.extractLsb' 8 8

/-- The low byte of a word, the one at the higher address (R64). -/
def lowByte (w : Word) : Byte := w.extractLsb' 0 8

/-- Decoding the first instruction of a sequence of bytes; what is left of the sequence comes with it. -/
def decode : List Byte → Except DecodeError (Instr × List Byte)
  | hi :: lo :: rest =>
    match decodeWord (wordOfBytes hi lo) with
    | .ok i => .ok (i, rest)
    | .error e => .error e
  | _ => .error .truncated

/-! ### The encoder, from the same formats (R93) -/

/-- Format `NNN`. -/
def formatNNN (op : Nibble) (nnn : Addr12) : Word := op ++ nnn

/-- Formats `XNN` and `XFF`. -/
def formatXNN (op : Nibble) (x : RegIdx) (nn : Byte) : Word := op ++ (x ++ nn)

/-- Formats `XYF` and `XYN`. -/
def formatXYN (op : Nibble) (x y : RegIdx) (n : Nibble) : Word := op ++ (x ++ (y ++ n))

/-- The word of an instruction (R93, R97). -/
def encode : Instr → Word
  | .cls => 0x00E0#16
  | .ret => 0x00EE#16
  | .jp nnn => formatNNN 0x1#4 nnn
  | .call nnn => formatNNN 0x2#4 nnn
  | .seImm x nn => formatXNN 0x3#4 x nn
  | .sneImm x nn => formatXNN 0x4#4 x nn
  | .seReg x y => formatXYN 0x5#4 x y 0x0#4
  | .sneReg x y => formatXYN 0x9#4 x y 0x0#4
  | .ldImm x nn => formatXNN 0x6#4 x nn
  | .addImm x nn => formatXNN 0x7#4 x nn
  | .ldReg x y => formatXYN 0x8#4 x y 0x0#4
  | .orReg x y => formatXYN 0x8#4 x y 0x1#4
  | .andReg x y => formatXYN 0x8#4 x y 0x2#4
  | .xorReg x y => formatXYN 0x8#4 x y 0x3#4
  | .addReg x y => formatXYN 0x8#4 x y 0x4#4
  | .sub x y => formatXYN 0x8#4 x y 0x5#4
  | .shr x y => formatXYN 0x8#4 x y 0x6#4
  | .subn x y => formatXYN 0x8#4 x y 0x7#4
  | .shl x y => formatXYN 0x8#4 x y 0xE#4
  | .ldI nnn => formatNNN 0xA#4 nnn
  | .jpV0 nnn => formatNNN 0xB#4 nnn
  | .rnd x nn => formatXNN 0xC#4 x nn
  | .drw x y n => formatXYN 0xD#4 x y n
  | .skp x => formatXNN 0xE#4 x 0x9E#8
  | .sknp x => formatXNN 0xE#4 x 0xA1#8
  | .ldVxDt x => formatXNN 0xF#4 x 0x07#8
  | .ldDtVx x => formatXNN 0xF#4 x 0x15#8
  | .ldStVx x => formatXNN 0xF#4 x 0x18#8
  | .addIVx x => formatXNN 0xF#4 x 0x1E#8
  | .ldVxK x => formatXNN 0xF#4 x 0x0A#8
  | .ldFVx x => formatXNN 0xF#4 x 0x29#8
  | .ldBVx x => formatXNN 0xF#4 x 0x33#8
  | .ldMemVx x => formatXNN 0xF#4 x 0x55#8
  | .ldVxMem x => formatXNN 0xF#4 x 0x65#8

/-- The bytes of an instruction in the order memory holds them: high byte first (R91). -/
def encodeBytes (i : Instr) : List Byte := [highByte (encode i), lowByte (encode i)]

/-! ### The opcode map as data (R96, R97) -/

/-- A row of the opcode map: a word selects it exactly when `word &&& mask = value`; `build` cuts the
row's fields from the word. -/
structure OpcodeRow where
  pattern : String
  mask : Word
  value : Word
  build : Word → Instr

/-- Rows 1 to 10 of R97. -/
def opcodeRowsA : List OpcodeRow :=
  [ ⟨"00E0", 0xFFFF#16, 0x00E0#16, fun _ => .cls⟩,
    ⟨"00EE", 0xFFFF#16, 0x00EE#16, fun _ => .ret⟩,
    ⟨"1NNN", 0xF000#16, 0x1000#16, fun w => .jp (fieldNNN w)⟩,
    ⟨"2NNN", 0xF000#16, 0x2000#16, fun w => .call (fieldNNN w)⟩,
    ⟨"3XNN", 0xF000#16, 0x3000#16, fun w => .seImm (fieldX w) (fieldNN w)⟩,
    ⟨"4XNN", 0xF000#16, 0x4000#16, fun w => .sneImm (fieldX w) (fieldNN w)⟩,
    ⟨"5XY0", 0xF00F#16, 0x5000#16, fun w => .seReg (fieldX w) (fieldY w)⟩,
    ⟨"9XY0", 0xF00F#16, 0x9000#16, fun w => .sneReg (fieldX w) (fieldY w)⟩,
    ⟨"6XNN", 0xF000#16, 0x6000#16, fun w => .ldImm (fieldX w) (fieldNN w)⟩,
    ⟨"7XNN", 0xF000#16, 0x7000#16, fun w => .addImm (fieldX w) (fieldNN w)⟩ ]

/-- Rows 11 to 23 of R97. -/
def opcodeRowsB : List OpcodeRow :=
  [ ⟨"8XY0", 0xF00F#16, 0x8000#16, fun w => .ldReg (fieldX w) (fieldY w)⟩,
    ⟨"8XY1", 0xF00F#16, 0x8001#16, fun w => .orReg (fieldX w) (fieldY w)⟩,
    ⟨"8XY2", 0xF00F#16, 0x8002#16, fun w => .andReg (fieldX w) (fieldY w)⟩,
    ⟨"8XY3", 0xF00F#16, 0x8003#16, fun w => .xorReg (fieldX w) (fieldY w)⟩,
    ⟨"8XY4", 0xF00F#16, 0x8004#16, fun w => .addReg (fieldX w) (fieldY w)⟩,
    ⟨"8XY5", 0xF00F#16, 0x8005#16, fun w => .sub (fieldX w) (fieldY w)⟩,
    ⟨"8XY6", 0xF00F#16, 0x8006#16, fun w => .shr (fieldX w) (fieldY w)⟩,
    ⟨"8XY7", 0xF00F#16, 0x8007#16, fun w => .subn (fieldX w) (fieldY w)⟩,
    ⟨"8XYE", 0xF00F#16, 0x800E#16, fun w => .shl (fieldX w) (fieldY w)⟩,
    ⟨"ANNN", 0xF000#16, 0xA000#16, fun w => .ldI (fieldNNN w)⟩,
    ⟨"BNNN", 0xF000#16, 0xB000#16, fun w => .jpV0 (fieldNNN w)⟩,
    ⟨"CXNN", 0xF000#16, 0xC000#16, fun w => .rnd (fieldX w) (fieldNN w)⟩,
    ⟨"DXYN", 0xF000#16, 0xD000#16, fun w => .drw (fieldX w) (fieldY w) (fieldN w)⟩ ]

/-- Rows 24 to 34 of R97. -/
def opcodeRowsC : List OpcodeRow :=
  [ ⟨"EX9E", 0xF0FF#16, 0xE09E#16, fun w => .skp (fieldX w)⟩,
    ⟨"EXA1", 0xF0FF#16, 0xE0A1#16, fun w => .sknp (fieldX w)⟩,
    ⟨"FX07", 0xF0FF#16, 0xF007#16, fun w => .ldVxDt (fieldX w)⟩,
    ⟨"FX15", 0xF0FF#16, 0xF015#16, fun w => .ldDtVx (fieldX w)⟩,
    ⟨"FX18", 0xF0FF#16, 0xF018#16, fun w => .ldStVx (fieldX w)⟩,
    ⟨"FX1E", 0xF0FF#16, 0xF01E#16, fun w => .addIVx (fieldX w)⟩,
    ⟨"FX0A", 0xF0FF#16, 0xF00A#16, fun w => .ldVxK (fieldX w)⟩,
    ⟨"FX29", 0xF0FF#16, 0xF029#16, fun w => .ldFVx (fieldX w)⟩,
    ⟨"FX33", 0xF0FF#16, 0xF033#16, fun w => .ldBVx (fieldX w)⟩,
    ⟨"FX55", 0xF0FF#16, 0xF055#16, fun w => .ldMemVx (fieldX w)⟩,
    ⟨"FX65", 0xF0FF#16, 0xF065#16, fun w => .ldVxMem (fieldX w)⟩ ]

/-- The opcode map of R97: 34 rows, in the order of the table. -/
def opcodeRows : List OpcodeRow := opcodeRowsA ++ opcodeRowsB ++ opcodeRowsC

/-- R96: "A word selects an instruction when, and only when, instr & mask = match". -/
def OpcodeRow.selects (r : OpcodeRow) (w : Word) : Bool := w &&& r.mask == r.value

/-! ### The table's numbering of bits -/

/-- What the decoder reads from an instruction whose bits are `w`, numbered as spec/opcode_table.json
numbers them: one 16-bit word, bit 0 the least significant; it is laid out high byte first (R91) and
given to `decode`. -/
def decodeTableWord (nbits w : Nat) : Option Instr :=
  let word : Word := BitVec.ofNat 16 (w % 2 ^ nbits)
  match decode [highByte word, lowByte word] with
  | .ok (i, _) => some i
  | .error _ => none

end Sys2Proof
end

