-- ==== Sys2Proof/Config.lean ====
section
/-!
DEFINITION. The fixed parameters (00_scope.md R5), the configuration record and the open parameters
(R6, R7), and the one free value, the random draw (R14).
-/

namespace Sys2Proof

namespace Config

/-- `MEM_SIZE` (R5): 4096 bytes. Masking with `ADDR_MASK` 0x0FFF is reduction modulo this. -/
def memSize : Nat := 4096

/-- `STACK_DEPTH` (R5). -/
def stackDepth : Nat := 64

/-- `TIMER_HZ` (R5): timer ticks in a second. -/
def timerHz : Nat := 60

/-- `DISP_W` (R5): display columns. -/
def dispW : Nat := 64

/-- `DISP_H` (R5): display rows. -/
def dispH : Nat := 32

/-- `PROG_START` (R5): reset value of the pc and load address of the ROM. -/
def progStart : Nat := 0x200

/-- `FONT_START` (R5): load address of the font table, base of FX29. -/
def fontStart : Nat := 0x050

/-- `FONT_END` (R5), exclusive. -/
def fontEnd : Nat := 0x0A0

/-- `GLYPH_BYTES` (R5): bytes of a font symbol. -/
def glyphBytes : Nat := 5

/-- `ROM_MAX` (R5, 90_conflicts.md C5): the longest ROM the loader accepts, 0xFFF - 0x200. -/
def romMax : Nat := 3583

/-- The free value `rand8()` (R14, R220): the byte that the n-th executed CXNN draws. It has no body
that a proof could see, so a statement about it holds for every generator. Log 4. -/
opaque rand8 : Nat → Byte

end Config

/-- The font table (R44): 16 symbols of 5 bytes each. -/
abbrev Font := Vector (Vector Byte 5) 16

/-- The conventional font table that R44 offers as the default value of the parameter `FONT`.
PRESUMED (general knowledge, G1; log 2). -/
def Font.conventional : Font :=
  #v[#v[0xF0, 0x90, 0x90, 0x90, 0xF0], #v[0x20, 0x60, 0x20, 0x20, 0x70],
     #v[0xF0, 0x10, 0xF0, 0x80, 0xF0], #v[0xF0, 0x10, 0xF0, 0x10, 0xF0],
     #v[0x90, 0x90, 0xF0, 0x10, 0x10], #v[0xF0, 0x80, 0xF0, 0x10, 0xF0],
     #v[0xF0, 0x80, 0xF0, 0x90, 0xF0], #v[0xF0, 0x10, 0x20, 0x40, 0x40],
     #v[0xF0, 0x90, 0xF0, 0x90, 0xF0], #v[0xF0, 0x90, 0xF0, 0x10, 0xF0],
     #v[0xF0, 0x90, 0xF0, 0x90, 0x90], #v[0xE0, 0x90, 0xE0, 0x90, 0xE0],
     #v[0xF0, 0x80, 0x80, 0x80, 0xF0], #v[0xE0, 0x90, 0x90, 0x90, 0xE0],
     #v[0xF0, 0x80, 0xF0, 0x80, 0xF0], #v[0xF0, 0x80, 0xF0, 0x80, 0x80]]

/-- The parameter `DRAW_Y_MOD` (R7, R213): the row modulus of DXYN is 64 by the document's letter or
32. Log 3. -/
inductive RowModulus where
  | mod64
  | mod32
  deriving DecidableEq, Repr

/-- The number that `DRAW_Y_MOD` stands for (R213). -/
def RowModulus.toNat : RowModulus → Nat
  | .mod64 => 64
  | .mod32 => 32

/-- The configuration record (R6) and the open parameters of R7. It is fixed at construction and no
step changes it (R38); the model carries it in State, where a step reads it (log 1). -/
structure Cfg where
  /-- 8XY6 and 8XYE shift Vx in place (true) or Vy into Vx (false). -/
  shiftVx : Bool
  /-- BNNN jumps to Vx + NN (true) or V0 + NNN (false). -/
  jumpWithVx : Bool
  /-- FX55 advances the index register (true) or leaves it (false). -/
  setRegistersIncrementIndex : Bool
  /-- FX65 advances the index register (true) or leaves it (false). -/
  loadRegistersIncrementIndex : Bool
  /-- CPU steps in a second (scheduler only). -/
  instructionsPerSecond : Nat
  /-- `DRAW_Y_MOD`. -/
  drawYMod : RowModulus
  /-- `FONT`, the bytes at 0x050 after reset. -/
  font : Font
  /-- `MAX_CATCHUP`: none is unbounded (R7, R258; log 8). -/
  maxCatchup : Option Nat
  /-- The model's own: the scheduler's clock units in a second (R258 asks for an exact
  representation of time, "integers in a common unit"; log 7). -/
  timeUnit : Nat
  deriving DecidableEq, Repr

/-- The defaults: R6 for the options and the rate, R213 for `DRAW_Y_MOD`, R44 for `FONT`, the table of
92_eei_decisions.md for `MAX_CATCHUP`. `timeUnit` 30000 = 500 * 60 is a DESIGN CHOICE (log 7). -/
def Cfg.default : Cfg where
  shiftVx := false
  jumpWithVx := false
  setRegistersIncrementIndex := false
  loadRegistersIncrementIndex := false
  instructionsPerSecond := 500
  drawYMod := .mod64
  font := Font.conventional
  maxCatchup := none
  timeUnit := 30000

end Sys2Proof
end

