-- ==== Sys2Proof/Machine/State.lean ====
section
/-!
DEFINITION. The state of the chirp CHIP-8 core (10_state.md), its inputs (60_exceptions.md R248, R258),
the reasons a run can stop, and the state after reset (R43).
-/

namespace Sys2Proof.Machine

/-- The three fatal runtime errors, complete (R240). -/
inductive FatalKind where
  | unrecognizedOpcode
  | stackOverflow
  | stackUnderflow
  deriving DecidableEq, Repr

/-- What a fatal error records (R37, R244): the kind, the word being executed and the address it was
fetched from. -/
structure FatalRecord where
  kind : FatalKind
  instr : Word
  addr : Word
  deriving DecidableEq, Repr

/-- The seven events of R248, each one atomic transition. A key index is given as a byte, so that a
report for an index above 15, which R254 calls "a no-op (ignored)", can be written down too. -/
inductive Event where
  | cpuStep
  | timerTick
  | keyDown (k : Byte)
  | keyUp (k : Byte)
  | pauseToggle
  | quit
  | present
  deriving DecidableEq, Repr

/-- What the outside can give the machine next: an event of R248, or an iteration of the scheduler after
`dt` clock units (R258). -/
inductive Input where
  | event (e : Event)
  | iterate (dt : Nat)
  deriving DecidableEq, Repr

/-- Memory as the list of the bytes that differ from the reset content, addresses strictly rising
(20_memory.md R60; log 22). `Memory.wf` in Machine/Ops.lean says the form. -/
abbrev Memory := List Host.Cell

/-- The display buffer (R32): 32 rows of 64 pixels, true is on; row 0, column 0 first. -/
abbrev Display := Vector (Vector Bool 64) 32

/-- The whole state: 10_state.md section 1, the scheduler's accumulators (R39), the configuration a step
reads (R6, log 1) and the model's own `agenda` (log 5) and `draws` (log 4). -/
structure State where
  /-- V0 to VF (R20). -/
  v : Vector Byte 16
  /-- `program_counter` (R25), never masked when written (R27). -/
  pc : Word
  /-- `I`, the index register (R28), never masked when written. -/
  i : Word
  /-- `DT` (R29). -/
  dt : Byte
  /-- `ST` (R30). -/
  st : Byte
  /-- `S[0]` to `S[63]` (R31). -/
  stack : Vector Word 64
  /-- `SP`, the number of entries held, 0 to 64 (R31). -/
  sp : Fin 65
  /-- `mem` (R40). -/
  mem : Memory
  /-- `disp` (R32). -/
  disp : Display
  /-- `keys` (R33). -/
  keys : Vector Bool 16
  /-- Cleared by Quit and by a fatal error (R34). -/
  running : Bool
  /-- Toggled by PauseToggle (R34). -/
  paused : Bool
  /-- Set by 00E0 and DXYN, cleared by Present (R35). -/
  needsRedraw : Bool
  /-- Set by FX0A, cleared by KeyDown (R36). -/
  waiting : Bool
  /-- The register the next pressed key goes to (R36). -/
  waitReg : RegIdx
  /-- The fatal error that happened, if one did (R37). -/
  fault : Option FatalRecord
  /-- `cpu_acc` (R39), in units of 1 / (timeUnit * instructions_per_second) second (log 7). -/
  cpuAcc : Nat
  /-- `timer_acc` (R39), in units of 1 / (timeUnit * 60) second (log 7). -/
  timerAcc : Nat
  /-- The configuration (R6) and open parameters (R7); no step changes it (R38). -/
  cfg : Cfg
  /-- The model's own: the coming inputs, first one first. When it is empty the next step is a CpuStep
  (log 5). -/
  agenda : List Input
  /-- The model's own: how many bytes have been drawn (log 4). -/
  draws : Nat
  deriving DecidableEq, Repr

/-- Why a RUN ended in a fault. No step answers one: a fatal error is taken as R244 and R245 describe it,
by a next state that is Stopped and holds the record. -/
inductive Fault where
  /-- Answered by `Machine.run` (Safety.lean) only: the run's outcome is the fatal error that was recorded
  (R245: "a terminal outcome of the run, distinct from a clean stop"). Safe: it keeps a claim about the
  run from reading the state of a faulted machine. -/
  | fatal (r : FatalRecord)
  deriving DecidableEq, Repr

/-- Why something has no meaning. No instruction and no input is refused. -/
inductive Refusal where
  /-- Would be answered by an arm of `exec` for an instruction without a meaning; no arm does. Safe. -/
  | notModelled (mnemonic : String)
  /-- Answered by `State.construct` (Machine/Boot.lean) only: the ROM is longer than `ROM_MAX`, the host's
  fatal configuration error, and no machine is constructed (R247, R291). Safe. -/
  | romTooLong
  deriving DecidableEq, Repr

/-- The state after reset (R43, R291) with the default configuration (R6) and an empty ROM, which R291
accepts. Values R43 marks "decided" are named in log 10; `agenda` and `draws` in logs 5 and 4. -/
def State.reset : State where
  v := Vector.replicate 16 0x00#8
  pc := 0x0200#16
  i := 0x0000#16
  dt := 0x00#8
  st := 0x00#8
  stack := Vector.replicate 64 0x0000#16
  sp := 0
  mem := []
  disp := Vector.replicate 32 (Vector.replicate 64 false)
  keys := Vector.replicate 16 false
  running := true
  paused := false
  needsRedraw := false
  waiting := false
  waitReg := 0x0#4
  fault := none
  cpuAcc := 0
  timerAcc := 0
  cfg := Cfg.default
  agenda := []
  draws := 0

end Sys2Proof.Machine
end

