-- ==== Sys2Proof/WellFormed.lean ====
section
/-!
DEFINITION. What the checks of well-formedness refuse. An instruction needs none: every field of
`Instr` has exactly the width R92 gives it, so an operand out of range cannot be written (R22, log 24).
What a host supplies at construction is checked: the configuration (R6, R7) and the ROM (R5, R247).
-/

namespace Sys2Proof

/-- `instructions_per_second` is a positive integer (R6), `MAX_CATCHUP` is a positive integer or
unbounded (R7), and the clock has a positive number of units in a second (log 7). -/
def Cfg.wf (c : Cfg) : Bool :=
  decide (0 < c.instructionsPerSecond) && decide (0 < c.timeUnit) &&
    (match c.maxCatchup with
      | none => true
      | some m => decide (0 < m))

/-- A ROM is no longer than `ROM_MAX` (R5, R247, R291). -/
def Rom.wf (rom : List Byte) : Bool := decide (rom.length ≤ Config.romMax)

end Sys2Proof
end

