-- ==== Sys2Proof/Machine/Ops.lean ====
section
/-!
DEFINITION. The named operations over the state: registers, memory, stack, display, keyboard, program
counter, and taking a fatal error.
-/

namespace Sys2Proof.Machine

/-- What a step answers. -/
abbrev StepOutcome := Host.Outcome State Fault Refusal

/-! ### One write for each piece of state -/

/-- Write the pc; it is not masked (R27). -/
def State.setPc (s : State) (a : Word) : State := { s with pc := a }

/-- Write the index register; it is not masked (R28). -/
def State.setI (s : State) (a : Word) : State := { s with i := a }

/-- Write the delay timer (R29). -/
def State.setDt (s : State) (b : Byte) : State := { s with dt := b }

/-- Write the sound timer (R30). -/
def State.setSt (s : State) (b : Byte) : State := { s with st := b }

/-- Replace memory. -/
def State.setMem (s : State) (m : Memory) : State := { s with mem := m }

/-- Replace the display buffer. -/
def State.setDisp (s : State) (d : Display) : State := { s with disp := d }

/-- Write `needs_redraw` (R35). -/
def State.setNeedsRedraw (s : State) (b : Bool) : State := { s with needsRedraw := b }

/-- Write `running` (R34). -/
def State.setRunning (s : State) (b : Bool) : State := { s with running := b }

/-- Write `paused` (R34). -/
def State.setPaused (s : State) (b : Bool) : State := { s with paused := b }

/-- Enter the key wait for a register (R36, R224). -/
def State.startWait (s : State) (x : RegIdx) : State := { s with waiting := true, waitReg := x }

/-- Leave the key wait (R254); `wait_reg` keeps its value. -/
def State.endWait (s : State) : State := { s with waiting := false }

/-- Write the two accumulators (R258). -/
def State.setAccumulators (s : State) (cpu timer : Nat) : State :=
  { s with cpuAcc := cpu, timerAcc := timer }

/-- Replace the coming inputs (log 5). -/
def State.setAgenda (s : State) (l : List Input) : State := { s with agenda := l }

/-- Count one draw from the random source (log 4). -/
def State.countDraw (s : State) : State := { s with draws := s.draws + 1 }

/-! ### General registers (R20 to R24) -/

/-- `V[r]` (R10). -/
def State.readV (s : State) (r : RegIdx) : Byte := s.v[r.toNat]

/-- `V[r] <- b` (R10). No register is hardwired (R21). -/
def State.writeV (s : State) (r : RegIdx) (b : Byte) : State :=
  { s with v := s.v.set r.toNat b }

/-- The index of VF, the flag register (R5, R23). -/
def flagReg : RegIdx := 0xF#4

/-- Result first, flag last (R24, R168): with x = 0xF the result is lost (log 12). -/
def State.writeResultAndFlag (s : State) (x : RegIdx) (result : Byte) (flag : Byte) : State :=
  (s.writeV x result).writeV flagReg flag

/-! ### Memory (20_memory.md) -/

/-- What an unlisted address reads as: the reset content with an empty ROM, which is the font at
0x050 to 0x09F and zero elsewhere (R43, R62). -/
def Memory.resetByte (font : Font) (a : Nat) : Byte :=
  if h : Config.fontStart ≤ a ∧ a < Config.fontEnd then
    (font[(a - Config.fontStart) / Config.glyphBytes]'(by
      simp only [Config.fontStart, Config.fontEnd, Config.glyphBytes] at *; omega))[
      (a - Config.fontStart) % Config.glyphBytes]'(by
      simp only [Config.glyphBytes]; omega)
  else 0x00#8

/-- The byte at an address below 4096. -/
def Memory.read (font : Font) (m : Memory) (a : Nat) : Byte :=
  match m with
  | [] => Memory.resetByte font a
  | (b, w) :: rest => if a = b then w else Memory.read font rest a

/-- Store a byte at an address below 4096, keeping addresses rising and listing no byte that an unlisted
address already reads as (log 22). -/
def Memory.write (font : Font) (m : Memory) (a : Nat) (x : Byte) : Memory :=
  match m with
  | [] => if x = Memory.resetByte font a then [] else [(a, x)]
  | (b, w) :: rest =>
    if a < b then
      if x = Memory.resetByte font a then (b, w) :: rest else (a, x) :: (b, w) :: rest
    else if a = b then
      if x = Memory.resetByte font a then rest else (a, x) :: rest
    else (b, w) :: Memory.write font rest a x

/-- The canonical form above a bound: addresses rise strictly, lie in the memory (R60) and list only
bytes that differ from the reset content. -/
def Memory.wfFrom (font : Font) : Nat → Memory → Bool
  | _, [] => true
  | lo, (a, x) :: rest =>
    decide (lo ≤ a) && decide (a < Config.memSize) && decide (x ≠ Memory.resetByte font a) &&
      Memory.wfFrom font (a + 1) rest

/-- Memory is in its canonical form (log 22). -/
def Memory.wf (font : Font) (m : Memory) : Bool := Memory.wfFrom font 0 m

/-- `MemRead(a, 1)`, `a` any non-negative integer: the address is masked to 12 bits (R10, R61). -/
def State.memRead (s : State) (a : Nat) : Byte := Memory.read s.cfg.font s.mem (a % Config.memSize)

/-- `MemWrite(a, 1, x)` (R10, R61). -/
def State.memWrite (s : State) (a : Nat) (x : Byte) : State :=
  { s with mem := Memory.write s.cfg.font s.mem (a % Config.memSize) x }

/-- The first `n` of V0, V1, ... stored at `base`, ascending (R194). -/
def State.storeRegs (base : Nat) : Nat → State → State
  | 0, s => s
  | n + 1, s =>
    let s' := State.storeRegs base n s
    s'.memWrite (base + n) (s'.readV (BitVec.ofNat 4 n))

/-- The first `n` of V0, V1, ... loaded from `base`, ascending (R195). -/
def State.loadRegs (base : Nat) : Nat → State → State
  | 0, s => s
  | n + 1, s =>
    let s' := State.loadRegs base n s
    s'.writeV (BitVec.ofNat 4 n) (s'.memRead (base + n))

/-! ### The stack (R12, R31) -/

/-- `S[SP] <- a; SP <- SP + 1`, or none when 64 entries are held (R12). -/
def State.push (s : State) (a : Word) : Option State :=
  if h : s.sp.val < 64 then
    some { s with stack := s.stack.set s.sp.val a, sp := ⟨s.sp.val + 1, by omega⟩ }
  else none

/-- `SP <- SP - 1; return S[SP]`, or none when empty (R12). The popped entry is not erased (R31). -/
def State.pop (s : State) : Option (Word × State) :=
  if h : 0 < s.sp.val then
    some (s.stack[s.sp.val - 1]'(by omega), { s with sp := ⟨s.sp.val - 1, by omega⟩ })
  else none

/-! ### Program counter -/

/-- Add to the pc modulo 65536 (R26, log 11). -/
def State.advancePc (s : State) (n : Nat) : State :=
  s.setPc (BitVec.ofNat 16 ((s.pc.toNat + n) % 65536))

/-- A skip: 2 more on the already advanced pc when the condition holds; the bytes passed over are not
looked at (R148). -/
def State.skipIf (s : State) (c : Bool) : State := if c then s.advancePc 2 else s

/-! ### Keyboard (R33) -/

/-- `KeyPressed(k)` for an 8-bit `k` (R13): false above 15 (log 15). -/
def State.keyPressed (s : State) (k : Byte) : Bool :=
  if h : k.toNat < 16 then s.keys[k.toNat] else false

/-- A key report (R33): an index above 15 changes nothing. -/
def State.setKey (s : State) (k : Byte) (b : Bool) : State :=
  if h : k.toNat < 16 then { s with keys := s.keys.set k.toNat b } else s

/-! ### Display (R32, R211 to R215) -/

/-- The pixel at a row and a column; outside the grid there is none, and nothing reads there (R77). -/
def Display.pixel (d : Display) (row col : Nat) : Bool :=
  if h : row < 32 ∧ col < 64 then (d[row]'h.1)[col]'h.2 else false

/-- Flip the pixel at a row and a column; nothing is drawn outside the grid (R212). -/
def Display.toggle (d : Display) (row col : Nat) : Display :=
  if h : row < 32 ∧ col < 64 then
    d.set row ((d[row]'h.1).set col (!((d[row]'h.1)[col]'h.2)) h.2) h.1
  else d

/-- Every pixel off (R210). -/
def Display.clear : Display := Vector.replicate 32 (Vector.replicate 64 false)

/-- The bit of a sprite byte at a column 0 to 7: bit 7 is the leftmost (R214, log 13). -/
def spriteBit (b : Byte) (c : Nat) : Bool := b.getLsbD (7 - c)

/-- The first `n` columns of a sprite row drawn at (x0, row), with the collision so far. A column right of
the screen is skipped, each column by itself, which R212 says is the same as stopping the row. -/
def drawCols (b : Byte) (row x0 : Nat) : Nat → Display × Bool → Display × Bool
  | 0, acc => acc
  | c + 1, acc =>
    let (d, hit) := drawCols b row x0 c acc
    if x0 + c > 63 then (d, hit)
    else if spriteBit b c then (d.toggle row (x0 + c), hit || d.pixel row (x0 + c))
    else (d, hit)

/-- The first `n` rows of the sprite at address `base`, drawn at (x0, y0), with the collision so far; rows
below the screen are skipped (R211, R212). -/
def State.drawRows (s : State) (base x0 y0 : Nat) : Nat → Display × Bool → Display × Bool
  | 0, acc => acc
  | r + 1, acc =>
    let acc' := s.drawRows base x0 y0 r acc
    if y0 + r > 31 then acc' else drawCols (s.memRead (base + r)) (y0 + r) x0 8 acc'

/-! ### Taking a fatal error (60_exceptions.md R240 to R246) -/

/-- The code of a fatal error (R240). -/
def FatalKind.code : FatalKind → Nat
  | .unrecognizedOpcode => 1
  | .stackOverflow => 2
  | .stackUnderflow => 3

/-- Taking a fatal error, the one exception entry of this hardware: the record (kind, word,
A = pc - 2 modulo 65536) goes to `fault` (R244) and `running` is cleared, the state Stopped (R245). There is
no vector and no handler. Nothing else changes: the check precedes every write of the instruction (R127).
There is no return from it (R246), so no operation stands beside it. Log 9. -/
def State.raiseFatal (s : State) (k : FatalKind) (word : Word) : State :=
  { s with
    running := false
    fault := some ⟨k, word, BitVec.ofNat 16 ((s.pc.toNat + 65536 - 2) % 65536)⟩ }

end Sys2Proof.Machine
end

