-- ==== Sys2Proof/Machine/Operands.lean ====
section
/-!
DEFINITION. Every operand form of the instruction set: the shift source, the jump sum, the effective
address `I + k`, the font address, the start coordinates of DXYN.
-/

namespace Sys2Proof.Machine

/-- A 12-bit immediate zero-extended to 16 bits (R94). -/
def zext16 (nnn : Addr12) : Word := BitVec.ofNat 16 nnn.toNat

/-- The operand 8XY6 and 8XYE shift: Vx when `cfg.shift_vx`, else Vy (R172, R174). -/
def State.shiftSource (s : State) (x y : RegIdx) : Byte :=
  if s.cfg.shiftVx then s.readV x else s.readV y

/-- `x` of a BNNN word in quirk mode: bits 11 to 8 (R93, R147). -/
def jumpX (nnn : Addr12) : RegIdx := nnn.extractLsb' 8 4

/-- `nn` of a BNNN word in quirk mode: bits 7 to 0 (R93, R147). -/
def jumpNN (nnn : Addr12) : Byte := nnn.extractLsb' 0 8

/-- The target of BNNN (R147): V0 + nnn, or Vx + nn when `cfg.jump_with_vx`. -/
def State.jumpTarget (s : State) (nnn : Addr12) : Word :=
  if s.cfg.jumpWithVx then
    BitVec.ofNat 16 (((s.readV (jumpX nnn)).toNat + (jumpNN nnn).toNat) % 65536)
  else BitVec.ofNat 16 (((s.readV 0x0#4).toNat + nnn.toNat) % 65536)

/-- The effective address `I + k` as an exact sum; memory masks it (R70, R196). -/
def State.effAddr (s : State) (k : Nat) : Nat := s.i.toNat + k

/-- `I + n` modulo 65536 (R197, log 11). -/
def State.indexPlus (s : State) (n : Nat) : Word := BitVec.ofNat 16 ((s.i.toNat + n) % 65536)

/-- The address of a font symbol: 0x050 + 5 times the whole 8-bit value (R192). -/
def fontAddr (v : Byte) : Word := BitVec.ofNat 16 (Config.fontStart + v.toNat * Config.glyphBytes)

/-- The start column of DXYN: Vx modulo 64 (R211). -/
def State.drawX (s : State) (x : RegIdx) : Nat := (s.readV x).toNat % 64

/-- The start row of DXYN: Vy modulo `DRAW_Y_MOD` (R211, R213). -/
def State.drawY (s : State) (y : RegIdx) : Nat := (s.readV y).toNat % s.cfg.drawYMod.toNat

end Sys2Proof.Machine
end

