-- ==== Sys2Proof/Machine/ControlFlow.lean ====
section
/-!
DEFINITION. Control flow (41_control_flow.md). Every meaning runs after fetch: `s.pc` is already the
instruction's own address plus 2 (R125).
-/

namespace Sys2Proof.Machine

/-- 00EE (R140): pop into the pc, or StackUnderflow when the stack is empty. -/
def execRet (s : State) : StepOutcome :=
  match s.pop with
  | some (a, t) => .next (t.setPc a)
  | none => .next (s.raiseFatal .stackUnderflow (encode .ret))

/-- 1NNN (R141). -/
def execJp (nnn : Addr12) (s : State) : StepOutcome := .next (s.setPc (zext16 nnn))

/-- 2NNN (R142): push the advanced pc and jump, or StackOverflow when 64 entries are held. -/
def execCall (nnn : Addr12) (s : State) : StepOutcome :=
  match s.push s.pc with
  | some t => .next (t.setPc (zext16 nnn))
  | none => .next (s.raiseFatal .stackOverflow (encode (.call nnn)))

/-- 3XNN (R143). -/
def execSeImm (x : RegIdx) (nn : Byte) (s : State) : StepOutcome :=
  .next (s.skipIf (s.readV x == nn))

/-- 4XNN (R144). -/
def execSneImm (x : RegIdx) (nn : Byte) (s : State) : StepOutcome :=
  .next (s.skipIf (s.readV x != nn))

/-- 5XY0 (R145). -/
def execSeReg (x y : RegIdx) (s : State) : StepOutcome :=
  .next (s.skipIf (s.readV x == s.readV y))

/-- 9XY0 (R146). -/
def execSneReg (x y : RegIdx) (s : State) : StepOutcome :=
  .next (s.skipIf (s.readV x != s.readV y))

/-- BNNN (R147). -/
def execJpV0 (nnn : Addr12) (s : State) : StepOutcome := .next (s.setPc (s.jumpTarget nnn))

end Sys2Proof.Machine
end

