-- ==== Sys2Proof/Machine/Flags.lean ====
section
/-!
DEFINITION. Every result and flag computation of the arithmetic instructions (10_state.md R23,
42_register_alu.md R166 to R174). Sums and differences are computed exactly on the unsigned values and
then brought to 8 bits (R9, R170).
-/

namespace Sys2Proof.Machine

/-- The value VF gets: 0x00 or 0x01, held in all 8 bits (R23). -/
def flagByte (b : Bool) : Byte := if b then 0x01#8 else 0x00#8

/-- The 8-bit sum (R170). -/
def sumResult (a b : Byte) : Byte := BitVec.ofNat 8 ((a.toNat + b.toNat) % 256)

/-- Carry of 8XY4 (R166): the exact sum is above 255. -/
def sumCarry (a b : Byte) : Bool := decide (a.toNat + b.toNat > 255)

/-- The 8-bit difference `a - b` modulo 256 (R170): `a - b` when `a >= b`, else `a - b + 256`. -/
def diffResult (a b : Byte) : Byte := BitVec.ofNat 8 ((a.toNat + 256 - b.toNat) % 256)

/-- The flag of 8XY5 and 8XY7 (R171): the minuend is strictly greater than the subtrahend. -/
def diffFlag (a b : Byte) : Bool := decide (a.toNat > b.toNat)

/-- The logical right shift by one (R172). -/
def shrResult (src : Byte) : Byte := BitVec.ofNat 8 (src.toNat / 2)

/-- The bit 8XY6 shifts out: bit 0 (R172). -/
def shrFlag (src : Byte) : Bool := src.getLsbD 0

/-- The left shift by one, modulo 256 (R174). -/
def shlResult (src : Byte) : Byte := BitVec.ofNat 8 (src.toNat * 2 % 256)

/-- The bit 8XYE shifts out: bit 7 (R174). -/
def shlFlag (src : Byte) : Bool := src.getLsbD 7

/-- The decimal digits FX33 stores (R193): hundreds, tens, ones. -/
def digitHundreds (v : Byte) : Byte := BitVec.ofNat 8 (v.toNat / 100)

/-- The tens digit (R193). -/
def digitTens (v : Byte) : Byte := BitVec.ofNat 8 (v.toNat / 10 % 10)

/-- The ones digit (R193). -/
def digitOnes (v : Byte) : Byte := BitVec.ofNat 8 (v.toNat % 10)

end Sys2Proof.Machine
end

