-- ==== Sys2Proof/Machine/DisplayInstr.lean ====
section
/-!
DEFINITION. Display instructions (44_display.md).
-/

namespace Sys2Proof.Machine

/-- 00E0 (R210). -/
def execCls (s : State) : StepOutcome := .next ((s.setDisp Display.clear).setNeedsRedraw true)

/-- DXYN (R211 to R215): both coordinates are read from the registers before VF is written (R24, log 12);
VF ends as the collision; `needs_redraw` is always set. -/
def execDrw (x y : RegIdx) (n : Nibble) (s : State) : StepOutcome :=
  let drawn := s.drawRows (s.effAddr 0) (s.drawX x) (s.drawY y) n.toNat (s.disp, false)
  .next (((s.setDisp drawn.1).writeV flagReg (flagByte drawn.2)).setNeedsRedraw true)

end Sys2Proof.Machine
end

