-- ==== Sys2Proof/Machine/IndexMemory.lean ====
section
/-!
DEFINITION. Index register and memory instructions (43_index_memory.md).
-/

namespace Sys2Proof.Machine

/-- ANNN (R190). -/
def execLdI (nnn : Addr12) (s : State) : StepOutcome := .next (s.setI (zext16 nnn))

/-- FX1E (R191): modulo 65536, no flag. -/
def execAddIVx (x : RegIdx) (s : State) : StepOutcome :=
  .next (s.setI (s.indexPlus (s.readV x).toNat))

/-- FX29 (R192). -/
def execLdFVx (x : RegIdx) (s : State) : StepOutcome := .next (s.setI (fontAddr (s.readV x)))

/-- FX33 (R193): hundreds, tens, ones at I, I + 1, I + 2. -/
def execLdBVx (x : RegIdx) (s : State) : StepOutcome :=
  let v := s.readV x
  .next (((s.memWrite (s.effAddr 0) (digitHundreds v)).memWrite (s.effAddr 1) (digitTens v)).memWrite
    (s.effAddr 2) (digitOnes v))

/-- FX55 (R194): V0 to Vx stored from I upward; I advances by x + 1 under
`cfg.set_registers_increment_index` (log 19). -/
def execLdMemVx (x : RegIdx) (s : State) : StepOutcome :=
  let t := State.storeRegs (s.effAddr 0) (x.toNat + 1) s
  .next (if s.cfg.setRegistersIncrementIndex then t.setI (s.indexPlus (x.toNat + 1)) else t)

/-- FX65 (R195): V0 to Vx loaded from I upward; I advances by x + 1 under
`cfg.load_registers_increment_index` (log 19). -/
def execLdVxMem (x : RegIdx) (s : State) : StepOutcome :=
  let t := State.loadRegs (s.effAddr 0) (x.toNat + 1) s
  .next (if s.cfg.loadRegistersIncrementIndex then t.setI (s.indexPlus (x.toNat + 1)) else t)

end Sys2Proof.Machine
end

