-- ==== Sys2Proof/Machine/KeyTimerRandom.lean ====
section
/-!
DEFINITION. Random, keyboard and timer instructions (45_keyboard_timers_random.md).
-/

namespace Sys2Proof.Machine

/-- The effect of CXNN for a draw `r` (R220): Vx = r AND nn, and one draw is counted. -/
def State.rndWith (s : State) (r : Byte) (x : RegIdx) (nn : Byte) : State :=
  (s.writeV x (r &&& nn)).countDraw

/-- CXNN (R220): the draw is the free value `Config.rand8` (log 4). -/
def execRnd (x : RegIdx) (nn : Byte) (s : State) : StepOutcome :=
  .next (s.rndWith (Config.rand8 s.draws) x nn)

/-- EX9E (R221): the key index is the whole 8-bit value of Vx. -/
def execSkp (x : RegIdx) (s : State) : StepOutcome := .next (s.skipIf (s.keyPressed (s.readV x)))

/-- EXA1 (R222). -/
def execSknp (x : RegIdx) (s : State) : StepOutcome := .next (s.skipIf (!s.keyPressed (s.readV x)))

/-- FX07 (R223). -/
def execLdVxDt (x : RegIdx) (s : State) : StepOutcome := .next (s.writeV x s.dt)

/-- FX0A (R224): enter the key wait; the KeyDown event completes it (R254). -/
def execLdVxK (x : RegIdx) (s : State) : StepOutcome := .next (s.startWait x)

/-- FX15 (R225). -/
def execLdDtVx (x : RegIdx) (s : State) : StepOutcome := .next (s.setDt (s.readV x))

/-- FX18 (R226). -/
def execLdStVx (x : RegIdx) (s : State) : StepOutcome := .next (s.setSt (s.readV x))

end Sys2Proof.Machine
end

