-- ==== Sys2Proof/Machine/RegisterAlu.lean ====
section
/-!
DEFINITION. Register loads and arithmetic (42_register_alu.md). Operands are read before anything is
written; the result is written to Vx, then the flag to VF (R168).
-/

namespace Sys2Proof.Machine

/-- 6XNN (R160). -/
def execLdImm (x : RegIdx) (nn : Byte) (s : State) : StepOutcome := .next (s.writeV x nn)

/-- 7XNN (R161): no flag change. -/
def execAddImm (x : RegIdx) (nn : Byte) (s : State) : StepOutcome :=
  .next (s.writeV x (sumResult (s.readV x) nn))

/-- 8XY0 (R162). -/
def execLdReg (x y : RegIdx) (s : State) : StepOutcome := .next (s.writeV x (s.readV y))

/-- 8XY1 (R163): VF is not written. -/
def execOrReg (x y : RegIdx) (s : State) : StepOutcome :=
  .next (s.writeV x (s.readV x ||| s.readV y))

/-- 8XY2 (R164): VF is not written. -/
def execAndReg (x y : RegIdx) (s : State) : StepOutcome :=
  .next (s.writeV x (s.readV x &&& s.readV y))

/-- 8XY3 (R165): VF is not written. -/
def execXorReg (x y : RegIdx) (s : State) : StepOutcome :=
  .next (s.writeV x (s.readV x ^^^ s.readV y))

/-- 8XY4 (R166). -/
def execAddReg (x y : RegIdx) (s : State) : StepOutcome :=
  let a := s.readV x
  let b := s.readV y
  .next (s.writeResultAndFlag x (sumResult a b) (flagByte (sumCarry a b)))

/-- 8XY5 (R167). -/
def execSub (x y : RegIdx) (s : State) : StepOutcome :=
  let a := s.readV x
  let b := s.readV y
  .next (s.writeResultAndFlag x (diffResult a b) (flagByte (diffFlag a b)))

/-- 8XY6 (R172). -/
def execShr (x y : RegIdx) (s : State) : StepOutcome :=
  let src := s.shiftSource x y
  .next (s.writeResultAndFlag x (shrResult src) (flagByte (shrFlag src)))

/-- 8XY7 (R173). -/
def execSubn (x y : RegIdx) (s : State) : StepOutcome :=
  let a := s.readV x
  let b := s.readV y
  .next (s.writeResultAndFlag x (diffResult b a) (flagByte (diffFlag b a)))

/-- 8XYE (R174). -/
def execShl (x y : RegIdx) (s : State) : StepOutcome :=
  let src := s.shiftSource x y
  .next (s.writeResultAndFlag x (shlResult src) (flagByte (shlFlag src)))

end Sys2Proof.Machine
end

