-- ==== Sys2Proof/Machine/Cycle.lean ====
section
/-!
DEFINITION. The instruction cycle (40_instruction_cycle.md): gating, fetch, decode, execute.
-/

namespace Sys2Proof.Machine

/-- A CPU step has an effect only in the run state Running (R121, R249). -/
def State.cpuActive (s : State) : Bool := s.running && !s.paused && !s.waiting

/-- The word at the pc: high byte at pc, low byte at pc + 1, each address masked (R122). -/
def State.fetchWord (s : State) : Word :=
  wordOfBytes (s.memRead s.pc.toNat) (s.memRead (s.pc.toNat + 1))

/-- The two bytes fetch reads, in the order it reads them (R122). -/
def State.fetchBytes (s : State) : List Byte :=
  [s.memRead s.pc.toNat, s.memRead (s.pc.toNat + 1)]

/-- The state after fetch: the pc advanced by 2 modulo 65536 (R122, log 11). -/
def State.afterFetch (s : State) : State := s.advancePc 2

/-- CpuStep (R120): nothing at all when not Running, else fetch, decode and execute; an unrecognized word
is fatal (R241), with the pc already advanced. -/
def cpuStep (s : State) : StepOutcome :=
  if s.cpuActive then
    match decode s.fetchBytes with
    | .ok (i, _) => exec i s.afterFetch
    | .error _ => .next (s.afterFetch.raiseFatal .unrecognizedOpcode s.fetchWord)
  else .next s

/-- The two bytes of a word placed where fetch reads them: the high byte at pc, the low byte at pc + 1
(R91, R122). -/
def State.placeWord (s : State) (w : Word) : State :=
  (s.memWrite s.pc.toNat (highByte w)).memWrite (s.pc.toNat + 1) (lowByte w)

end Sys2Proof.Machine
end

