-- ==== Sys2Proof/Machine/Events.lean ====
section
/-!
DEFINITION. The seven events (60_exceptions.md R248 to R260) and the scheduler (R258, R259).
-/

namespace Sys2Proof.Machine

/-- A timer counted down by one and clamped at 0 (R253, log 16). -/
def countDown (t : Byte) : Byte := if t.toNat > 0 then BitVec.ofNat 8 (t.toNat - 1) else t

/-- TimerTick (R253): frozen when stopped or paused; not gated by the key wait. -/
def timerTick (s : State) : State :=
  if s.running && !s.paused then (s.setDt (countDown s.dt)).setSt (countDown s.st) else s

/-- The end of a key wait by key `k` (R254): the index goes to the waiting register. -/
def State.resolveWait (s : State) (k : Byte) : State :=
  if s.waiting then (s.writeV s.waitReg k).endWait else s

/-- KeyDown(k) (R254): acts whether or not the core is paused (log 17); an index above 15 is ignored and
ends no wait. -/
def keyDown (k : Byte) (s : State) : State :=
  if s.running && decide (k.toNat < 16) then (s.setKey k true).resolveWait k else s

/-- KeyUp(k) (R255): never ends a wait. -/
def keyUp (k : Byte) (s : State) : State := if s.running then s.setKey k false else s

/-- PauseToggle (R256). -/
def pauseToggle (s : State) : State := if s.running then s.setPaused (!s.paused) else s

/-- Quit (R257): a clean stop, `fault` stays none. -/
def quit (s : State) : State := if s.running then s.setRunning false else s

/-- Whether a Present event hands the picture over (R260). -/
def State.presents (s : State) : Bool := s.running && s.needsRedraw

/-- Present (R260): the request is consumed (log 18). What the sink receives is `presentedPicture`
in Machine/Ports.lean. -/
def present (s : State) : State := if s.presents then s.setNeedsRedraw false else s

/-- The transition of each event (R248). -/
def applyEvent (e : Event) (s : State) : StepOutcome :=
  match e with
  | .cpuStep => cpuStep s
  | .timerTick => .next (timerTick s)
  | .keyDown k => .next (keyDown k s)
  | .keyUp k => .next (keyUp k s)
  | .pauseToggle => .next (pauseToggle s)
  | .quit => .next (quit s)
  | .present => .next (present s)

/-! ### The scheduler (R258) -/

/-- How often a loop `while acc >= cost (at most MAX_CATCHUP times): acc <- acc - cost` runs. -/
def drainCount (bound : Option Nat) (acc cost : Nat) : Nat :=
  match bound with
  | none => acc / cost
  | some m => min m (acc / cost)

/-- What one iteration issues and leaves (R258). -/
structure Drained where
  steps : Nat
  ticks : Nat
  cpuAcc : Nat
  timerAcc : Nat
  deriving DecidableEq, Repr

/-- The two accumulators grown by `dt` clock units and drained (R258). A clock unit adds
`instructions_per_second` to the first and 60 to the second; a step or a tick takes `timeUnit`
(log 7). -/
def drain (c : Cfg) (cpuAcc timerAcc dt : Nat) : Drained :=
  let cpu := cpuAcc + dt * c.instructionsPerSecond
  let timer := timerAcc + dt * Config.timerHz
  let steps := drainCount c.maxCatchup cpu c.timeUnit
  let ticks := drainCount c.maxCatchup timer c.timeUnit
  { steps := steps, ticks := ticks,
    cpuAcc := cpu - steps * c.timeUnit, timerAcc := timer - ticks * c.timeUnit }

/-- The inputs an iteration issues, in the order of the listing of R258 (log 6). -/
def Drained.inputs (d : Drained) : List Input :=
  List.replicate d.steps (.event .cpuStep) ++ List.replicate d.ticks (.event .timerTick)

/-- One scheduler iteration after `dt` clock units (R258): the external signals pending before it stand
before it in the agenda; when running and not paused the accumulators grow and are drained into steps and
ticks; Present ends the iteration. What it issues comes before the rest of the agenda. -/
def schedulerIteration (dt : Nat) (s : State) : State :=
  if s.running && !s.paused then
    let d := drain s.cfg s.cpuAcc s.timerAcc dt
    (s.setAccumulators d.cpuAcc d.timerAcc).setAgenda
      (d.inputs ++ .event .present :: s.agenda)
  else s.setAgenda (.event .present :: s.agenda)

/-- What one input does (R248, R258). -/
def applyInput (inp : Input) (s : State) : StepOutcome :=
  match inp with
  | .event e => applyEvent e s
  | .iterate dt => .next (schedulerIteration dt s)

/-- The next input taken from the agenda and done; a CpuStep when none is listed (log 5). -/
def takeInput (s : State) : StepOutcome :=
  match s.agenda with
  | [] => applyEvent .cpuStep s
  | inp :: rest => applyInput inp (s.setAgenda rest)

end Sys2Proof.Machine
end

