-- ==== Sys2Proof/Machine/Step.lean ====
section
/-!
DEFINITION. One step of the machine: the next input of the agenda, a CpuStep when none is listed (log 5);
and the placing of an instruction word where the next step fetches it.
-/

namespace Sys2Proof.Machine

/-- One step (R248, R252): one atomic transition. -/
def step (s : State) : Host.Outcome State Fault Refusal := takeInput s

/-- The state with a word, bits numbered as spec/opcode_table.json numbers them, stored at the pc, high
byte first, and with the run state Running and the next input a CpuStep, so that the very next step fetches
and runs it (log 23). In the reset state only memory changes. -/
def State.withFetchWord (s : State) (nbits w : Nat) : State :=
  let t := s.placeWord (BitVec.ofNat 16 (w % 2 ^ nbits))
  { t with
    running := true
    paused := false
    waiting := false
    agenda :=
      match t.agenda with
      | [] => []
      | inp :: rest => .event .cpuStep :: inp :: rest }

end Sys2Proof.Machine
end

