-- ==== Sys2Proof/Machine/Boot.lean ====
section
/-!
DEFINITION. Reset as construction (70_reset_and_hazards.md R290, R291): the machine a host gets from a
configuration, a font and a ROM.
-/

namespace Sys2Proof.Machine

/-- The bytes of a list written one after another from an address upward. -/
def State.writeBytes (s : State) (a : Nat) : List Byte → State
  | [] => s
  | b :: rest => (s.memWrite a b).writeBytes (a + 1) rest

/-- `Reset(cfg, FONT, ROM)` (R291), `FONT` being a field of the configuration record (log 2): the zeroed
machine with the font at 0x050 and the ROM, verbatim, from 0x200. A ROM longer than `ROM_MAX` is refused
before any execution: no machine is constructed (R247). -/
def State.construct (cfg : Cfg) (rom : List Byte) : StepOutcome :=
  if Rom.wf rom then
    .next (State.writeBytes { State.reset with cfg := cfg } Config.progStart rom)
  else .refused .romTooLong

end Sys2Proof.Machine
end

