-- ==== Sys2Proof/Machine/Ports.lean ====
section
/-!
DEFINITION. What the outside sees of the state (60_exceptions.md R249, R260, R264, R265, R269): functions
of the state, no state of their own.
-/

namespace Sys2Proof.Machine

/-- The four run states (R249). -/
inductive RunState where
  | running
  | paused
  | waitingForKey
  | stopped
  deriving DecidableEq, Repr

/-- The run state in terms of the flags (R34, R249). -/
def State.runState (s : State) : RunState :=
  if !s.running then .stopped
  else if s.paused then .paused
  else if s.waiting then .waitingForKey
  else .running

/-- The beep level given to the audio sink (R265): on exactly while ST is not 0. -/
def State.beep (s : State) : Bool := decide (s.st.toNat ≠ 0)

/-- The two signals of the audio sink (R265). -/
inductive AudioSignal where
  | startBeep
  | stopBeep
  deriving DecidableEq, Repr

/-- The edge of the beep level between the states before and after an event (R265). -/
def audioSignal (before after : State) : Option AudioSignal :=
  match before.beep, after.beep with
  | false, true => some .startBeep
  | true, false => some .stopBeep
  | false, false => none
  | true, true => none

/-- What the display sink receives when a Present event is taken in a state (R260, R264): the whole grid
as it is, or nothing. -/
def State.presentedPicture (s : State) : Option Display :=
  if s.presents then some s.disp else none

/-- `disp_q`, the read port of the display buffer (R269). -/
def State.dispQ (s : State) (row col : Nat) : Bool := Display.pixel s.disp row col

/-- `fault_kind` (R269): 0 for none, else the code of R240. -/
def State.faultKind (s : State) : Nat :=
  match s.fault with
  | none => 0
  | some r => r.kind.code

end Sys2Proof.Machine
end

