-- ==== Sys2Proof/Safety.lean ====
section
/-!
DEFINITION. The terms claims are stated in: the invariant of the state, reachable states, and the outcome
of a run, which hides the state of a faulted machine (60_exceptions.md R245).
-/

namespace Sys2Proof.Machine

/-- What every step keeps: memory in its canonical form (log 22), a legal configuration (R6), and a
machine that holds a fatal record is Stopped (R245, R246). -/
structure State.Inv (s : State) : Prop where
  memory : Memory.wf s.cfg.font s.mem = true
  config : s.cfg.wf = true
  faulted : s.fault.isSome = true → s.running = false

/-- The states the machine can be in: what `construct` makes (R290), with any inputs to come, and
whatever a step leads to. -/
inductive Reachable : State → Prop where
  | start {cfg : Cfg} {rom : List Byte} {s : State} (inputs : List Input)
      (legal : cfg.wf = true) (made : State.construct cfg rom = .next s) : Reachable (s.setAgenda inputs)
  | after {s t : State} (before : Reachable s) (stepped : step s = .next t) : Reachable t

/-- The outcome of a run that has come to a state: a fatal error that was taken IS the outcome, and the
state behind it is not shown (R245, log 9). -/
def State.conclude (s : State) : StepOutcome :=
  match s.fault with
  | some r => .fault (.fatal r)
  | none => .next s

/-- The outcome of a run of `n` steps. -/
def run : Nat → State → StepOutcome
  | 0, s => s.conclude
  | n + 1, s =>
    match step s with
    | .next t => run n t
    | .fault r => .fault r
    | .refused r => .refused r

/-- A run is safe when it has not ended in a fatal error; only then may a claim read its state. -/
def SafeRun (n : Nat) (s : State) : Prop := ∃ t, run n s = .next t

end Sys2Proof.Machine
end

