-- ==== Sys2Proof/Certificates/Slice0/Obligations.lean ====
section
/-!
DEFINITION. The statements for the provers, and the few predicates they share. Each docstring names the rule
of spec/ a statement formalises; where it rests on a choice (the spec's own decision or the model's), the
log entry is named. No statement reads registers, memory, stack or display of a machine that has taken a
fatal error (60_exceptions.md R245, log 9).
-/

namespace Sys2Proof.Machine

/-- Nothing but the register file changed, and of it only `V[x]`, which now holds `b`. -/
def WritesOnlyReg (s t : State) (x : RegIdx) (b : Byte) : Prop :=
  t.readV x = b ∧ (∀ r, r ≠ x → t.readV r = s.readV r) ∧ (∀ a, t.memRead a = s.memRead a) ∧
    t = { s with v := t.v }

/-- Nothing but the register file changed: VF holds the flag; `V[x]` holds the number `result` unless x is
0xF; every other register is unchanged. -/
def WritesRegAndFlag (s t : State) (x : RegIdx) (result : Nat) (flag : Prop) : Prop :=
  (flag → t.readV 0xF#4 = 0x01#8) ∧ (¬flag → t.readV 0xF#4 = 0x00#8) ∧
    (x ≠ 0xF#4 → (t.readV x).toNat = result) ∧
    (∀ r, r ≠ x → r ≠ 0xF#4 → t.readV r = s.readV r) ∧ (∀ a, t.memRead a = s.memRead a) ∧
    t = { s with v := t.v }

/-- Nothing but the pc changed, which now holds the number `p`. -/
def WritesOnlyPc (s t : State) (p : Nat) : Prop :=
  t.pc.toNat = p ∧ (∀ r, t.readV r = s.readV r) ∧ (∀ a, t.memRead a = s.memRead a) ∧
    t = { s with pc := t.pc }

/-- Nothing but the pc changed: a taken skip adds 2 modulo 65536, an untaken one leaves it. -/
def SkipsWhen (s t : State) (c : Prop) : Prop :=
  (c → WritesOnlyPc s t ((s.pc.toNat + 2) % 65536)) ∧ (¬c → WritesOnlyPc s t s.pc.toNat)

/-- Nothing but the index register changed, which now holds the number `n`. -/
def WritesOnlyI (s t : State) (n : Nat) : Prop :=
  t.i.toNat = n ∧ (∀ r, t.readV r = s.readV r) ∧ (∀ a, t.memRead a = s.memRead a) ∧
    t = { s with i := t.i }

/-- The machine has taken a fatal error and is Stopped; its record is `r`. -/
def TookFatal (t : State) (r : FatalRecord) : Prop := t.running = false ∧ t.fault = some r

/-- The pixel of a sprite of `n` rows with its top left corner at (x0, y0) and its bytes at the effective
addresses `I + r`: it lies on the screen at (row, col) and its bit, bit 7 leftmost, is 1. -/
def SpritePixelOn (s : State) (x0 y0 n row col : Nat) : Prop :=
  row < 32 ∧ col < 64 ∧ y0 ≤ row ∧ row < y0 + n ∧ x0 ≤ col ∧ col < x0 + 8 ∧
    (s.memRead (s.effAddr (row - y0))).toNat / 2 ^ (7 - (col - x0)) % 2 = 1

/-- R21's table: the instructions that may write `V[r]`. -/
def MayWriteReg (i : Instr) (r : RegIdx) : Prop :=
  (∃ nn, i = .ldImm r nn ∨ i = .addImm r nn ∨ i = .rnd r nn) ∨
    (∃ y, i = .ldReg r y ∨ i = .orReg r y ∨ i = .andReg r y ∨ i = .xorReg r y ∨ i = .addReg r y ∨
      i = .sub r y ∨ i = .shr r y ∨ i = .subn r y ∨ i = .shl r y) ∨
    i = .ldVxDt r ∨
    (∃ x, i = .ldVxMem x ∧ r.toNat ≤ x.toNat) ∨
    (r = 0xF#4 ∧ ((∃ x y, i = .addReg x y ∨ i = .sub x y ∨ i = .shr x y ∨ i = .subn x y ∨ i = .shl x y) ∨
      ∃ x y n, i = .drw x y n))

/-- What the next fetch sees of a store of the `n` bytes `b 0`, `b 1`, ... at the effective addresses I, I + 1,
... between `s` and `t`: each of its two bytes is the stored byte where its address meets one, and the byte
memory held before where it meets none. -/
def FetchSeesStore (s t : State) (n : Nat) (b : Nat → Byte) : Prop :=
  (∀ k, k < n → t.pc.toNat % 4096 = s.effAddr k % 4096 → highByte t.fetchWord = b k) ∧
    (∀ k, k < n → (t.pc.toNat + 1) % 4096 = s.effAddr k % 4096 → lowByte t.fetchWord = b k) ∧
    ((∀ k, k < n → t.pc.toNat % 4096 ≠ s.effAddr k % 4096) →
      highByte t.fetchWord = s.memRead t.pc.toNat) ∧
    ((∀ k, k < n → (t.pc.toNat + 1) % 4096 ≠ s.effAddr k % 4096) →
      lowByte t.fetchWord = s.memRead (t.pc.toNat + 1))

/-- Subroutine calls one after another, each from its own return address. -/
def callSeq : List (Word × Addr12) → State → StepOutcome
  | [], s => .next s
  | (p, a) :: rest, s =>
    match exec (.call a) (s.setPc p) with
    | .next t => callSeq rest t
    | o => o

/-- The addresses that `n` returns, one after another, go to. -/
def retSeq : Nat → State → List Word
  | 0, _ => []
  | n + 1, s =>
    match exec .ret s with
    | .next t => t.pc :: retSeq n t
    | _ => []

/-- The CPU steps and the timer ticks issued over a sequence of scheduler iterations, from given
accumulators. -/
def issuedOver (c : Cfg) : Nat → Nat → List Nat → Nat × Nat
  | _, _, [] => (0, 0)
  | cpu, timer, dt :: rest =>
    let d := drain c cpu timer dt
    let later := issuedOver c d.cpuAcc d.timerAcc rest
    (d.steps + later.1, d.ticks + later.2)

end Sys2Proof.Machine

open Sys2Proof Sys2Proof.Machine

/-! ### Reset and construction -/

/-- The values R43 marks "stated": registers, pc, stack, display, keys and memory (the font bytes are those of
the configuration, any table, log 2). -/
def Obligations.ResetLeavesStatedValues : Prop :=
  (∀ r, State.reset.readV r = 0x00#8) ∧ State.reset.pc.toNat = 0x200 ∧ State.reset.sp.val = 0 ∧
    (∀ j (h : j < 64), State.reset.stack[j] = 0x0000#16) ∧
    (∀ row col, State.reset.disp.pixel row col = false) ∧
    (∀ k, State.reset.keyPressed k = false) ∧
    (∀ a, a < 4096 → ¬(0x050 ≤ a ∧ a < 0x0A0) → State.reset.memRead a = 0x00#8) ∧
    (∀ d (hd : d < 16) j (hj : j < 5),
      State.reset.memRead (0x050 + 5 * d + j) = (State.reset.cfg.font[d]'hd)[j]'hj)

/-- The values R43 marks "decided": the spec's own choice D12, named in log 10. -/
def Obligations.ResetLeavesDecidedValues : Prop :=
  State.reset.i = 0x0000#16 ∧ State.reset.dt = 0x00#8 ∧ State.reset.st = 0x00#8 ∧
    State.reset.running = true ∧ State.reset.paused = false ∧ State.reset.needsRedraw = false ∧
    State.reset.waiting = false ∧ State.reset.waitReg = 0x0#4 ∧ State.reset.fault = none ∧
    State.reset.cpuAcc = 0 ∧ State.reset.timerAcc = 0

/-- R291 with R247 and R262: for every configuration (with any font, log 2) and every ROM of at most 3583
bytes the machine is constructed: the font at 0x050, the ROM verbatim from 0x200, zero elsewhere, all else as
after reset; a longer ROM is refused and no machine exists. -/
def Obligations.ConstructionLoadsFontAndRom : Prop :=
  ∀ (cfg : Cfg) (rom : List Byte),
    (rom.length ≤ 3583 →
      ∃ t, State.construct cfg rom = .next t ∧
        t = { State.reset with cfg := cfg, mem := t.mem } ∧
        (∀ j (h : j < rom.length), t.memRead (0x200 + j) = rom[j]) ∧
        (∀ d (hd : d < 16) j (hj : j < 5), t.memRead (0x050 + 5 * d + j) = (cfg.font[d]'hd)[j]'hj) ∧
        (∀ a, a < 4096 → ¬(0x050 ≤ a ∧ a < 0x0A0) → ¬(0x200 ≤ a ∧ a < 0x200 + rom.length) →
          t.memRead a = 0x00#8)) ∧
    (3583 < rom.length → State.construct cfg rom = .refused .romTooLong)

/-- The invariant holds at reset. -/
def Obligations.ResetSatisfiesInvariant : Prop := State.reset.Inv

/-- Every step keeps the invariant: memory canonical, configuration legal, a faulted machine Stopped. -/
def Obligations.StepKeepsInvariant : Prop :=
  ∀ s t : State, s.Inv → step s = .next t → t.Inv

/-- Every state the machine can be in, from any legal configuration, ROM and inputs, meets the invariant. -/
def Obligations.ReachableStatesSatisfyInvariant : Prop := ∀ s : State, Reachable s → s.Inv

/-! ### Encoding -/

/-- Decoding the bytes of any instruction, whatever follows them, gives it back with every operand. -/
def Obligations.DecodeInvertsEncode : Prop :=
  ∀ (i : Instr) (rest : List Byte), decode (encodeBytes i ++ rest) = .ok (i, rest)

/-- Every recognized word is the word of the instruction it decodes to: no bit of it is ignored. -/
def Obligations.EncodeInvertsDecode : Prop :=
  ∀ (w : Word) (i : Instr), decodeWord w = .ok i → encode i = w

/-- R96: a word selects an instruction when, and only when, it matches that instruction's row of R97; a word
that matches no row is unrecognized. That the rows are pairwise disjoint is the spec's own inference from R97. -/
def Obligations.DecoderFollowsOpcodeMap : Prop :=
  (∀ (w : Word) (i : Instr),
    decodeWord w = .ok i ↔ ∃ r ∈ opcodeRows, r.selects w = true ∧ r.build w = i) ∧
  (∀ (w : Word) (j k : Fin 34), (opcodeRows[j.val]'j.isLt).selects w = true →
    (opcodeRows[k.val]'k.isLt).selects w = true → j = k) ∧
  (∀ w : Word, decodeWord w = .error (.unrecognizedOpcode w) ↔
    ∀ r ∈ opcodeRows, r.selects w = false)

/-- The unrecognized words, family by family, as the table of R98 lists them. That families 0, 5 and 9 have
these is the spec's decisions D9 and D8 (R99, R100, log 14). -/
def Obligations.UnrecognizedWordsByFamily : Prop :=
  ∀ w : Word, decodeWord w = .error (.unrecognizedOpcode w) ↔
    (w.toNat / 4096 = 0 ∧ w.toNat % 4096 ≠ 0x0E0 ∧ w.toNat % 4096 ≠ 0x0EE) ∨
    (w.toNat / 4096 = 5 ∧ w.toNat % 16 ≠ 0) ∨
    (w.toNat / 4096 = 8 ∧ w.toNat % 16 ∈ [8, 9, 0xA, 0xB, 0xC, 0xD, 0xF]) ∨
    (w.toNat / 4096 = 9 ∧ w.toNat % 16 ≠ 0) ∨
    (w.toNat / 4096 = 0xE ∧ w.toNat % 256 ∉ [0x9E, 0xA1]) ∨
    (w.toNat / 4096 = 0xF ∧
      w.toNat % 256 ∉ [0x07, 0x0A, 0x15, 0x18, 0x1E, 0x29, 0x33, 0x55, 0x65])

/-- One word of each family, written out from the spec's encoding, decodes to its instruction, and some
neighbours to none. -/
def Obligations.SampleWordsDecode : Prop :=
  decode [0b00000000#8, 0b11101110#8] = .ok (.ret, []) ∧
  decode [0b00101111#8, 0b11111111#8] = .ok (.call 0xFFF#12, []) ∧
  decode [0b00111010#8, 0b01000010#8] = .ok (.seImm 0xA#4 0x42#8, []) ∧
  decode [0b10001010#8, 0b10110110#8] = .ok (.shr 0xA#4 0xB#4, []) ∧
  decode [0b10100001#8, 0b00100011#8] = .ok (.ldI 0x123#12, []) ∧
  decode [0b11010001#8, 0b00101111#8] = .ok (.drw 0x1#4 0x2#4 0xF#4, []) ∧
  decode [0b11100011#8, 0b10100001#8] = .ok (.sknp 0x3#4, []) ∧
  decode [0b11110100#8, 0b00001010#8] = .ok (.ldVxK 0x4#4, []) ∧
  decode [0b00000000#8, 0b00000000#8] = .error (.unrecognizedOpcode 0x0000#16) ∧
  decode [0b10001010#8, 0b10111000#8] = .error (.unrecognizedOpcode 0x8AB8#16)

/-! ### The instruction cycle -/

/-- R120, R122: in the run state Running, when the two bytes at the pc (high byte first) decode to an
instruction, the step is its meaning in the state whose pc fetch has advanced by 2 modulo 65536 (the modulus is
the spec's decision D2, log 11). The step is a CpuStep when no input is listed or a CpuStep is the next one (the
model's choice, log 5). -/
def Obligations.StepRunsDecodedInstruction : Prop :=
  ∀ (s : State) (i : Instr), s.running = true → s.paused = false → s.waiting = false →
    decode [s.memRead s.pc.toNat, s.memRead (s.pc.toNat + 1)] = .ok (i, []) →
    (s.agenda = [] →
      step s = exec i { s with pc := BitVec.ofNat 16 ((s.pc.toNat + 2) % 65536) }) ∧
    (∀ rest, s.agenda = .event .cpuStep :: rest →
      step s = exec i
        { s with pc := BitVec.ofNat 16 ((s.pc.toNat + 2) % 65536), agenda := rest })

/-- R121: a CPU step does nothing, neither fetch nor execute nor pc advance, when the core is Stopped, Paused
or waiting for a key. -/
def Obligations.CpuStepActsOnlyWhenRunning : Prop :=
  ∀ s : State, (s.running = false ∨ s.paused = true ∨ s.waiting = true) →
    applyEvent .cpuStep s = .next s

/-- R141 (R128, the spec's own inference): a 1NNN whose target is its own address leaves the whole state as it
was. -/
def Obligations.SelfJumpLeavesStateUnchanged : Prop :=
  ∀ (s : State) (nnn : Addr12), s.running = true → s.paused = false → s.waiting = false →
    decode [s.memRead s.pc.toNat, s.memRead (s.pc.toNat + 1)] = .ok (.jp nnn, []) →
    nnn.toNat = s.pc.toNat → applyEvent .cpuStep s = .next s

/-- Every instruction, and every step, answers a next state: nothing is refused. That a fatal error is a next
state which is Stopped and holds the record is the model's form (log 9). -/
def Obligations.EveryStepAnswersNextState : Prop :=
  (∀ (i : Instr) (s : State), ∃ t, exec i s = .next t) ∧ ∀ s : State, ∃ t, step s = .next t

/-- R21's table and R42's column "written by", with R26, R33, R60, R79: only the named instructions write each
piece of state, the general registers included; the key bits, `paused`, the accumulators, the configuration and
the inputs to come (log 5) are written by none. Which option lets FX55 and which lets FX65 write I is the spec's
decision D22 (log 19). What a fatal error leaves beside the record is not read (R245, D16, log 9). The draw
counter is the model's own (log 4). -/
def Obligations.OnlyNamedInstructionsWrite : Prop :=
  ∀ (i : Instr) (s t : State), exec i s = .next t →
    ((t.running ≠ s.running ∨ t.fault ≠ s.fault) → i = .ret ∨ ∃ n, i = .call n) ∧
    (t.fault = none →
    (t.keys = s.keys ∧ t.paused = s.paused ∧ t.cpuAcc = s.cpuAcc ∧ t.timerAcc = s.timerAcc ∧
      t.cfg = s.cfg ∧ t.agenda = s.agenda) ∧
    (∀ r, t.readV r ≠ s.readV r → MayWriteReg i r) ∧
    (t.dt ≠ s.dt → ∃ x, i = .ldDtVx x) ∧
    (t.st ≠ s.st → ∃ x, i = .ldStVx x) ∧
    (t.i ≠ s.i → (∃ n, i = .ldI n) ∨ (∃ x, i = .addIVx x) ∨ (∃ x, i = .ldFVx x) ∨
      (∃ x, i = .ldMemVx x ∧ s.cfg.setRegistersIncrementIndex = true) ∨
      (∃ x, i = .ldVxMem x ∧ s.cfg.loadRegistersIncrementIndex = true)) ∧
    (t.mem ≠ s.mem → (∃ x, i = .ldBVx x) ∨ (∃ x, i = .ldMemVx x)) ∧
    (t.disp ≠ s.disp → i = .cls ∨ ∃ x y n, i = .drw x y n) ∧
    (t.needsRedraw ≠ s.needsRedraw → i = .cls ∨ ∃ x y n, i = .drw x y n) ∧
    ((t.sp ≠ s.sp ∨ t.stack ≠ s.stack) → i = .ret ∨ ∃ n, i = .call n) ∧
    ((t.waiting ≠ s.waiting ∨ t.waitReg ≠ s.waitReg) → ∃ x, i = .ldVxK x) ∧
    (t.draws ≠ s.draws → ∃ x nn, i = .rnd x nn) ∧
    (t.pc ≠ s.pc → i = .ret ∨ (∃ n, i = .jp n) ∨ (∃ n, i = .call n) ∨ (∃ n, i = .jpV0 n) ∨
      (∃ x nn, i = .seImm x nn) ∨ (∃ x nn, i = .sneImm x nn) ∨ (∃ x y, i = .seReg x y) ∨
      (∃ x y, i = .sneReg x y) ∨ (∃ x, i = .skp x) ∨ (∃ x, i = .sknp x)))

/-- R30: no instruction reads the sound timer: with another value of ST every instruction does the same, ST
apart. FX18 overwrites it. -/
def Obligations.NoInstructionReadsSoundTimer : Prop :=
  ∀ (i : Instr) (s t : State) (b : Byte), exec i s = .next t → t.fault = none →
    ((∀ x, i ≠ .ldStVx x) → exec i { s with st := b } = .next { t with st := b }) ∧
    ((∃ x, i = .ldStVx x) → exec i { s with st := b } = .next t)

/-- R6, R38: no step changes the configuration. -/
def Obligations.StepKeepsConfiguration : Prop :=
  ∀ s t : State, step s = .next t → t.cfg = s.cfg

/-! ### Fatal errors -/

/-- R244 with R241, R242, R243, R245: a step that fetches an unrecognized word, a 2NNN with 64 entries held
or a 00EE with none records (kind, word, address it was fetched from) and stops the machine. The form of the
record is the spec's decision D15 (logs 9, 26). -/
def Obligations.FatalErrorsAreRecorded : Prop :=
  ∀ (s : State) (w : Word), s.running = true → s.paused = false → s.waiting = false →
    w = wordOfBytes (s.memRead s.pc.toNat) (s.memRead (s.pc.toNat + 1)) →
    (decodeWord w = .error (.unrecognizedOpcode w) →
      ∃ t, applyEvent .cpuStep s = .next t ∧ TookFatal t ⟨.unrecognizedOpcode, w, s.pc⟩) ∧
    (∀ nnn, decodeWord w = .ok (.call nnn) → s.sp.val = 64 →
      ∃ t, applyEvent .cpuStep s = .next t ∧ TookFatal t ⟨.stackOverflow, w, s.pc⟩) ∧
    (decodeWord w = .ok .ret → s.sp.val = 0 →
      ∃ t, applyEvent .cpuStep s = .next t ∧ TookFatal t ⟨.stackUnderflow, w, s.pc⟩)

/-- R240, R127: the three fatal errors are the only ones: whenever a step sets `fault`, the machine was
Running, the record (its form is the spec's decision D15, log 26) is of the word at the pc, and one of the three
conditions held. -/
def Obligations.OnlyThreeFatalErrors : Prop :=
  ∀ (s t : State) (r : FatalRecord), s.fault = none → step s = .next t → t.fault = some r →
    s.running = true ∧ s.paused = false ∧ s.waiting = false ∧ t.running = false ∧
    r.addr = s.pc ∧ r.instr = wordOfBytes (s.memRead s.pc.toNat) (s.memRead (s.pc.toNat + 1)) ∧
    ((r.kind = .unrecognizedOpcode ∧ decodeWord r.instr = .error (.unrecognizedOpcode r.instr)) ∨
     (r.kind = .stackOverflow ∧ (∃ nnn, r.instr = encode (.call nnn)) ∧ s.sp.val = 64) ∨
     (r.kind = .stackUnderflow ∧ r.instr = encode .ret ∧ s.sp.val = 0))

/-- R246 (with the spec's decisions D15 and D25, logs 9 and 20): a recorded fatal error is never cleared and
never replaced, and the machine stays Stopped. -/
def Obligations.FaultIsNeverCleared : Prop :=
  ∀ (s t : State) (r : FatalRecord), s.Inv → s.fault = some r → step s = .next t →
    t.fault = some r ∧ t.running = false

/-- R274 (the spec's decision D25, log 20): once Stopped, no event and no scheduler iteration changes any
state; a step only takes the input it ignores from the list. -/
def Obligations.StoppedIsAbsorbing : Prop :=
  ∀ s : State, s.running = false →
    (∀ e : Event, applyEvent e s = .next s) ∧
    ∀ t, step s = .next t → t = { s with agenda := t.agenda }

/-- R245 (the spec's decision D16, log 9): a run that is still shown after one more step was shown before it: a
fatal error, once taken, is the outcome of every longer run. -/
def Obligations.SafeRunsHaveSafePrefixes : Prop :=
  ∀ (n : Nat) (s : State), s.Inv → SafeRun (n + 1) s → SafeRun n s

/-! ### Register loads and arithmetic -/

/-- R160, R162: 6XNN and 8XY0 write `V[x]` and nothing else. -/
def Obligations.LoadsWriteDestinationOnly : Prop :=
  ∀ (x y : RegIdx) (nn : Byte) (s : State),
    (∃ t, exec (.ldImm x nn) s = .next t ∧ WritesOnlyReg s t x nn) ∧
    (∃ t, exec (.ldReg x y) s = .next t ∧ WritesOnlyReg s t x (s.readV y))

/-- R161: 7XNN adds modulo 256 and changes no flag (VF only as the destination). -/
def Obligations.AddImmediateChangesNoFlag : Prop :=
  ∀ (x : RegIdx) (nn : Byte) (s : State), ∃ t, exec (.addImm x nn) s = .next t ∧
    (t.readV x).toNat = ((s.readV x).toNat + nn.toNat) % 256 ∧
    WritesOnlyReg s t x (t.readV x)

/-- R163, R164, R165: 8XY1, 8XY2, 8XY3 write `V[x]` bit by bit and nothing else; VF is not touched. -/
def Obligations.LogicWritesDestinationOnly : Prop :=
  ∀ (x y : RegIdx) (s : State),
    (∃ t, exec (.orReg x y) s = .next t ∧ WritesOnlyReg s t x (t.readV x) ∧
      ∀ k, (t.readV x).getLsbD k = ((s.readV x).getLsbD k || (s.readV y).getLsbD k)) ∧
    (∃ t, exec (.andReg x y) s = .next t ∧ WritesOnlyReg s t x (t.readV x) ∧
      ∀ k, (t.readV x).getLsbD k = ((s.readV x).getLsbD k && (s.readV y).getLsbD k)) ∧
    (∃ t, exec (.xorReg x y) s = .next t ∧ WritesOnlyReg s t x (t.readV x) ∧
      ∀ k, (t.readV x).getLsbD k = ((s.readV x).getLsbD k != (s.readV y).getLsbD k))

/-- R166: 8XY4. With x = 0xF the flag is what VF keeps (the spec's decision D4, log 12). -/
def Obligations.AddRegistersSetsCarry : Prop :=
  ∀ (x y : RegIdx) (s : State), ∃ t, exec (.addReg x y) s = .next t ∧
    WritesRegAndFlag s t x (((s.readV x).toNat + (s.readV y).toNat) % 256)
      ((s.readV x).toNat + (s.readV y).toNat > 255)

/-- R167, R173, R171: 8XY5 and 8XY7 subtract modulo 256; VF is 1 exactly when the minuend is strictly
greater. With x = 0xF the flag is what VF keeps (the spec's decision D4, log 12). -/
def Obligations.SubtractionsSetStrictFlag : Prop :=
  ∀ (x y : RegIdx) (s : State),
    (∃ t, exec (.sub x y) s = .next t ∧
      WritesRegAndFlag s t x
        (if (s.readV x).toNat ≥ (s.readV y).toNat then (s.readV x).toNat - (s.readV y).toNat
          else (s.readV x).toNat + 256 - (s.readV y).toNat)
        ((s.readV x).toNat > (s.readV y).toNat)) ∧
    (∃ t, exec (.subn x y) s = .next t ∧
      WritesRegAndFlag s t x
        (if (s.readV y).toNat ≥ (s.readV x).toNat then (s.readV y).toNat - (s.readV x).toNat
          else (s.readV y).toNat + 256 - (s.readV x).toNat)
        ((s.readV y).toNat > (s.readV x).toNat))

/-- R172, R174: 8XY6 and 8XYE shift Vy (default) or Vx (`cfg.shift_vx`) by one into Vx; VF is the bit shifted
out. With x = 0xF the flag is what VF keeps (the spec's decision D4, log 12). -/
def Obligations.ShiftsMoveByOneBit : Prop :=
  ∀ (x y : RegIdx) (s : State) (src : Nat),
    src = (if s.cfg.shiftVx = true then (s.readV x).toNat else (s.readV y).toNat) →
    (∃ t, exec (.shr x y) s = .next t ∧ WritesRegAndFlag s t x (src / 2) (src % 2 = 1)) ∧
    (∃ t, exec (.shl x y) s = .next t ∧ WritesRegAndFlag s t x (src * 2 % 256) (src ≥ 128))

/-! ### Control flow -/

/-- R143 to R146: the four compare skips add 2 to the advanced pc when their condition holds, and change
nothing else. That the pc wraps modulo 65536 is the spec's decision D2 (log 11). -/
def Obligations.CompareSkipsMoveOnlyPc : Prop :=
  ∀ (x y : RegIdx) (nn : Byte) (s : State),
    (∃ t, exec (.seImm x nn) s = .next t ∧ SkipsWhen s t (s.readV x = nn)) ∧
    (∃ t, exec (.sneImm x nn) s = .next t ∧ SkipsWhen s t (s.readV x ≠ nn)) ∧
    (∃ t, exec (.seReg x y) s = .next t ∧ SkipsWhen s t (s.readV x = s.readV y)) ∧
    (∃ t, exec (.sneReg x y) s = .next t ∧ SkipsWhen s t (s.readV x ≠ s.readV y))

/-- R141, R147: 1NNN and both variants of BNNN write the pc and nothing else. That the pc is not masked to 12
bits is the spec's decision D2 (log 11). -/
def Obligations.JumpsMoveOnlyPc : Prop :=
  ∀ (nnn : Addr12) (s : State),
    (∃ t, exec (.jp nnn) s = .next t ∧ WritesOnlyPc s t nnn.toNat) ∧
    (s.cfg.jumpWithVx = false →
      ∃ t, exec (.jpV0 nnn) s = .next t ∧
        WritesOnlyPc s t ((s.readV 0x0#4).toNat + nnn.toNat) ∧ t.pc.toNat ≤ 0x10FE) ∧
    (s.cfg.jumpWithVx = true →
      ∃ t, exec (.jpV0 nnn) s = .next t ∧
        WritesOnlyPc s t
          ((s.readV (BitVec.ofNat 4 (nnn.toNat / 256))).toNat + nnn.toNat % 256) ∧
        t.pc.toNat ≤ 0x01FE)

/-- R142, R242: 2NNN with fewer than 64 entries pushes the advanced pc and jumps, changing nothing else; with
64 entries it is the fatal StackOverflow (the form of the record: log 26). -/
def Obligations.CallPushesReturnAddress : Prop :=
  ∀ (nnn : Addr12) (s : State),
    (∀ h : s.sp.val < 64,
      ∃ t, exec (.call nnn) s = .next t ∧ t.pc.toNat = nnn.toNat ∧ t.sp.val = s.sp.val + 1 ∧
        t.stack[s.sp.val] = s.pc ∧
        (∀ j (hj : j < 64), j ≠ s.sp.val → t.stack[j] = s.stack[j]) ∧
        (∀ r, t.readV r = s.readV r) ∧ (∀ a, t.memRead a = s.memRead a) ∧
        t = { s with pc := t.pc, sp := t.sp, stack := t.stack }) ∧
    (s.sp.val = 64 →
      ∃ t, exec (.call nnn) s = .next t ∧
        TookFatal t ⟨.stackOverflow, encode (.call nnn),
          BitVec.ofNat 16 ((s.pc.toNat + 65534) % 65536)⟩)

/-- R140, R243: 00EE with an entry held pops it into the pc, changing nothing else (the popped entry stays,
R31, log 21); with none it is the fatal StackUnderflow (the form of the record: log 26). -/
def Obligations.ReturnPopsIntoPc : Prop :=
  ∀ s : State,
    (0 < s.sp.val →
      ∃ t, exec .ret s = .next t ∧ s.stack[s.sp.val - 1]? = some t.pc ∧
        t.sp.val = s.sp.val - 1 ∧
        (∀ r, t.readV r = s.readV r) ∧ (∀ a, t.memRead a = s.memRead a) ∧
        t = { s with pc := t.pc, sp := t.sp }) ∧
    (s.sp.val = 0 →
      ∃ t, exec .ret s = .next t ∧
        TookFatal t ⟨.stackUnderflow, 0x00EE#16,
          BitVec.ofNat 16 ((s.pc.toNat + 65534) % 65536)⟩)

/-- R31, R12 (95_test_vectors.md M2): calls up to 64 entries all succeed, and as many returns go back to the
pushed addresses in exactly the reverse order. -/
def Obligations.ReturnsReverseCalls : Prop :=
  ∀ (l : List (Word × Addr12)) (s : State), s.sp.val + l.length ≤ 64 → s.fault = none →
    ∃ t, callSeq l s = .next t ∧ t.fault = none ∧ t.sp.val = s.sp.val + l.length ∧
      retSeq l.length t = (l.map Prod.fst).reverse

/-! ### Index register and memory -/

/-- R190, R192: ANNN and FX29 write the index register and nothing else; FX29 uses the whole Vx. -/
def Obligations.IndexLoadsWriteOnlyI : Prop :=
  ∀ (nnn : Addr12) (x : RegIdx) (s : State),
    (∃ t, exec (.ldI nnn) s = .next t ∧ WritesOnlyI s t nnn.toNat) ∧
    (∃ t, exec (.ldFVx x) s = .next t ∧ WritesOnlyI s t (0x050 + (s.readV x).toNat * 5))

/-- R191: FX1E adds Vx to the index register modulo 65536 (the spec's decision D3, log 11); VF is not
written. -/
def Obligations.AddToIndexWraps : Prop :=
  ∀ (x : RegIdx) (s : State), ∃ t, exec (.addIVx x) s = .next t ∧
    WritesOnlyI s t ((s.i.toNat + (s.readV x).toNat) % 65536)

/-- R193: FX33 stores the hundreds, tens and ones of Vx at the effective addresses I, I + 1, I + 2; every byte
outside those three reads as before; nothing but memory changes. -/
def Obligations.DecimalDigitsAreStored : Prop :=
  ∀ (x : RegIdx) (s : State), Memory.wf s.cfg.font s.mem = true →
    ∃ t, exec (.ldBVx x) s = .next t ∧
      (t.memRead (s.effAddr 0)).toNat = (s.readV x).toNat / 100 ∧
      (t.memRead (s.effAddr 1)).toNat = (s.readV x).toNat / 10 % 10 ∧
      (t.memRead (s.effAddr 2)).toNat = (s.readV x).toNat % 10 ∧
      (∀ a, (∀ k, k < 3 → a % 4096 ≠ s.effAddr k % 4096) → t.memRead a = s.memRead a) ∧
      (∀ r, t.readV r = s.readV r) ∧ t = { s with mem := t.mem }

/-- R194: FX55 stores V0 to Vx at the effective addresses I + i; every byte outside them reads as before; the
index register advances by x + 1 modulo 65536 (the spec's decision D3, log 11) under its option only (the pairing
of the options is the spec's decision D22, log 19); nothing else changes. -/
def Obligations.RegistersAreStored : Prop :=
  ∀ (x : RegIdx) (s : State), Memory.wf s.cfg.font s.mem = true →
    ∃ t, exec (.ldMemVx x) s = .next t ∧
      (∀ k, k ≤ x.toNat → t.memRead (s.effAddr k) = s.readV (BitVec.ofNat 4 k)) ∧
      (∀ a, (∀ k, k ≤ x.toNat → a % 4096 ≠ s.effAddr k % 4096) → t.memRead a = s.memRead a) ∧
      (s.cfg.setRegistersIncrementIndex = true → t.i.toNat = (s.i.toNat + x.toNat + 1) % 65536) ∧
      (s.cfg.setRegistersIncrementIndex = false → t.i = s.i) ∧
      (∀ r, t.readV r = s.readV r) ∧ t = { s with mem := t.mem, i := t.i }

/-- R195: FX65 loads V0 to Vx from the effective addresses I + i, other registers and all of memory staying;
the index register advances modulo 65536 (D3, log 11) under its own option only (pairing: D22, log 19). -/
def Obligations.RegistersAreLoaded : Prop :=
  ∀ (x : RegIdx) (s : State), ∃ t, exec (.ldVxMem x) s = .next t ∧
    (∀ r : RegIdx, r.toNat ≤ x.toNat → t.readV r = s.memRead (s.effAddr r.toNat)) ∧
    (∀ r : RegIdx, x.toNat < r.toNat → t.readV r = s.readV r) ∧
    (s.cfg.loadRegistersIncrementIndex = true → t.i.toNat = (s.i.toNat + x.toNat + 1) % 65536) ∧
    (s.cfg.loadRegistersIncrementIndex = false → t.i = s.i) ∧
    (∀ a, t.memRead a = s.memRead a) ∧ t = { s with v := t.v, i := t.i }

/-- R75 (the spec's own inference from R61, R72 and R122): a store is seen by the very next fetch. After FX33,
and after FX55 for every x, the word at the pc holds the stored byte in each half whose address meets one, and
the old byte in a half that meets none, wherever the pc stands. -/
def Obligations.StoredBytesAreFetched : Prop :=
  ∀ (x : RegIdx) (s : State), Memory.wf s.cfg.font s.mem = true →
    (∃ t, exec (.ldBVx x) s = .next t ∧ t.pc = s.pc ∧
      FetchSeesStore s t 3
        (fun k => BitVec.ofNat 8 ((s.readV x).toNat / 10 ^ (2 - k) % 10))) ∧
    (∃ t, exec (.ldMemVx x) s = .next t ∧ t.pc = s.pc ∧
      FetchSeesStore s t (x.toNat + 1) (fun k => s.readV (BitVec.ofNat 4 k)))

/-! ### Display -/

/-- R210: 00E0 turns every pixel off and asks for a redraw, and changes nothing else. -/
def Obligations.ClearTurnsEveryPixelOff : Prop :=
  ∀ s : State, ∃ t, exec .cls s = .next t ∧ (∀ row col, t.disp.pixel row col = false) ∧
    t.needsRedraw = true ∧ (∀ r, t.readV r = s.readV r) ∧ (∀ a, t.memRead a = s.memRead a) ∧
    t = { s with disp := t.disp, needsRedraw := t.needsRedraw }

/-- R211, R212, R215: DXYN flips exactly the pixels of the screen that lie under a sprite bit 1, pixel by
pixel; VF is 1 exactly when one of them was on; a redraw is asked for; no other register, no byte of memory and
nothing else changes. Bit order, coordinates read before VF is cleared, and the parameter DRAW_Y_MOD are the
spec's decisions D6, D5, D7 (logs 13, 12, 3). -/
def Obligations.DrawFlipsSpritePixels : Prop :=
  ∀ (x y : RegIdx) (n : Nibble) (s : State) (x0 y0 : Nat), x0 = (s.readV x).toNat % 64 →
    y0 = (s.readV y).toNat % s.cfg.drawYMod.toNat →
    ∃ t, exec (.drw x y n) s = .next t ∧
      (∀ row col, SpritePixelOn s x0 y0 n.toNat row col →
        t.disp.pixel row col = !s.disp.pixel row col) ∧
      (∀ row col, ¬SpritePixelOn s x0 y0 n.toNat row col →
        t.disp.pixel row col = s.disp.pixel row col) ∧
      ((∃ row col, SpritePixelOn s x0 y0 n.toNat row col ∧ s.disp.pixel row col = true) →
        t.readV 0xF#4 = 0x01#8) ∧
      ((∀ row col, SpritePixelOn s x0 y0 n.toNat row col → s.disp.pixel row col = false) →
        t.readV 0xF#4 = 0x00#8) ∧
      t.needsRedraw = true ∧ (∀ r, r ≠ 0xF#4 → t.readV r = s.readV r) ∧
      (∀ a, t.memRead a = s.memRead a) ∧
      t = { s with v := t.v, disp := t.disp, needsRedraw := t.needsRedraw }

/-- The document's XOR property (R211, X5) for every sprite: drawing it twice at the same coordinates gives
the display back. With x or y = 0xF the second coordinate is the collision flag, so those forms are in
DrawFlipsSpritePixels only. -/
def Obligations.DrawingTwiceRestoresDisplay : Prop :=
  ∀ (x y : RegIdx) (n : Nibble) (s t u : State), x ≠ 0xF#4 → y ≠ 0xF#4 →
    exec (.drw x y n) s = .next t → exec (.drw x y n) t = .next u → u.disp = s.disp

/-- R213 (log 3): the two values of DRAW_Y_MOD agree whenever Vy mod 64 is below 32; with 64, a start row of
32 to 63 draws nothing: display unchanged, VF = 0, redraw asked for. -/
def Obligations.RowModulusMattersOnlyBelowScreen : Prop :=
  ∀ (x y : RegIdx) (n : Nibble) (s : State),
    ((s.readV y).toNat % 64 < 32 →
      ∃ t : State, exec (.drw x y n) { s with cfg := { s.cfg with drawYMod := .mod64 } } =
          .next { t with cfg := { s.cfg with drawYMod := .mod64 } } ∧
        exec (.drw x y n) { s with cfg := { s.cfg with drawYMod := .mod32 } } =
          .next { t with cfg := { s.cfg with drawYMod := .mod32 } }) ∧
    (s.cfg.drawYMod = .mod64 → 32 ≤ (s.readV y).toNat % 64 →
      ∃ t, exec (.drw x y n) s = .next t ∧ t.disp = s.disp ∧ t.readV 0xF#4 = 0x00#8 ∧
        t.needsRedraw = true)

/-! ### Random, keyboard, timers -/

/-- R220: CXNN writes the draw AND nn, for whatever the draw is (log 4): every bit that is 0 in nn is 0 in the
result, and only Vx and the count of draws change. -/
def Obligations.RandomIsMasked : Prop :=
  ∀ (x : RegIdx) (nn : Byte) (s : State), ∃ t, exec (.rnd x nn) s = .next t ∧
    t.readV x = Config.rand8 s.draws &&& nn ∧
    (∀ k, nn.getLsbD k = false → (t.readV x).getLsbD k = false) ∧
    (∀ r, r ≠ x → t.readV r = s.readV r) ∧ (∀ a, t.memRead a = s.memRead a) ∧
    t.draws = s.draws + 1 ∧ t = { s with v := t.v, draws := t.draws }

/-- R221, R222: the key skips read the key bit named by the whole Vx; above 15 the key counts as not pressed
(the spec's decision D10, log 15). The pc wraps modulo 65536 (D2, log 11). -/
def Obligations.KeySkipsReadOneKey : Prop :=
  ∀ (x : RegIdx) (s : State) (pressed : Prop),
    (pressed ↔ ∃ h : (s.readV x).toNat < 16, s.keys[(s.readV x).toNat] = true) →
    (∃ t, exec (.skp x) s = .next t ∧ SkipsWhen s t pressed) ∧
    (∃ t, exec (.sknp x) s = .next t ∧ SkipsWhen s t (¬pressed))

/-- R223, R225, R226: FX07 reads DT into Vx; FX15 and FX18 write DT and ST from Vx; nothing else changes. -/
def Obligations.TimerInstructionsMoveOneByte : Prop :=
  ∀ (x : RegIdx) (s : State),
    (∃ t, exec (.ldVxDt x) s = .next t ∧ WritesOnlyReg s t x s.dt) ∧
    (∃ t, exec (.ldDtVx x) s = .next t ∧ t.dt = s.readV x ∧ (∀ r, t.readV r = s.readV r) ∧
      (∀ a, t.memRead a = s.memRead a) ∧ t = { s with dt := t.dt }) ∧
    (∃ t, exec (.ldStVx x) s = .next t ∧ t.st = s.readV x ∧ (∀ r, t.readV r = s.readV r) ∧
      (∀ a, t.memRead a = s.memRead a) ∧ t = { s with st := t.st })

/-- R224: FX0A enters the key wait for register x and changes nothing else. -/
def Obligations.KeyWaitIsEntered : Prop :=
  ∀ (x : RegIdx) (s : State), ∃ t, exec (.ldVxK x) s = .next t ∧ t.waiting = true ∧
    t.waitReg = x ∧ (∀ r, t.readV r = s.readV r) ∧ (∀ a, t.memRead a = s.memRead a) ∧
    t = { s with waiting := t.waiting, waitReg := t.waitReg }

/-! ### Events -/

/-- R254, R224, R33: KeyDown(k) with k at most 15 sets that key's bit and, in a key wait, writes k to the
waiting register and ends the wait, paused or not (the spec's decision D17, log 17); an index above 15 changes
nothing. Without a wait no register changes. -/
def Obligations.KeyDownEndsKeyWait : Prop :=
  ∀ (k : Byte) (s : State),
    (15 < k.toNat → applyEvent (.keyDown k) s = .next s) ∧
    (s.running = true → k.toNat ≤ 15 →
      ∃ t, applyEvent (.keyDown k) s = .next t ∧ t.waiting = false ∧
        (∀ q : Byte, t.keyPressed q = if q = k then true else s.keyPressed q) ∧
        (s.waiting = true → t.readV s.waitReg = k ∧ ∀ r, r ≠ s.waitReg → t.readV r = s.readV r) ∧
        (s.waiting = false → ∀ r, t.readV r = s.readV r) ∧
        (∀ a, t.memRead a = s.memRead a) ∧
        t = { s with v := t.v, keys := t.keys, waiting := t.waiting })

/-- R255: KeyUp(k) with k at most 15 clears that key's bit when running; it never ends a key wait and writes no
register. A report for an index above 15 changes nothing, running or not ("a no-op (ignored)", R33). -/
def Obligations.KeyUpClearsOneKey : Prop :=
  ∀ (k : Byte) (s : State),
    (15 < k.toNat → applyEvent (.keyUp k) s = .next s) ∧
    (s.running = false → applyEvent (.keyUp k) s = .next s) ∧
    (s.running = true → k.toNat ≤ 15 →
      ∃ t, applyEvent (.keyUp k) s = .next t ∧
        (∀ q : Byte, t.keyPressed q = if q = k then false else s.keyPressed q) ∧
        t.waiting = s.waiting ∧ (∀ r, t.readV r = s.readV r) ∧ t = { s with keys := t.keys })

/-- R253 (the spec's decision D11, log 16): a tick counts each timer down by one, clamped at 0, also during a
key wait; it does nothing when stopped or paused; it writes nothing but DT and ST. -/
def Obligations.TimerTickCountsDown : Prop :=
  ∀ s : State,
    ((s.running = false ∨ s.paused = true) → applyEvent .timerTick s = .next s) ∧
    (s.running = true → s.paused = false →
      ∃ t, applyEvent .timerTick s = .next t ∧ t.dt.toNat = s.dt.toNat - 1 ∧
        t.st.toNat = s.st.toNat - 1 ∧ t = { s with dt := t.dt, st := t.st })

/-- R256: PauseToggle flips `paused` when running; while paused, CpuStep and TimerTick have no effect and the
scheduler's accumulators do not grow. That PauseToggle is accepted in every running state, a key wait included,
is the spec's decision D25 (log 20). That the beep level stays is the spec's own inference from R265. -/
def Obligations.PauseFreezesTheCore : Prop :=
  ∀ s : State,
    (s.running = false → applyEvent .pauseToggle s = .next s) ∧
    (s.running = true → applyEvent .pauseToggle s = .next { s with paused := !s.paused }) ∧
    (s.paused = true → applyEvent .cpuStep s = .next s ∧ applyEvent .timerTick s = .next s ∧
      (∀ dt, (schedulerIteration dt s).cpuAcc = s.cpuAcc ∧
        (schedulerIteration dt s).timerAcc = s.timerAcc)) ∧
    (∀ t, applyEvent .pauseToggle s = .next t → t.beep = s.beep)

/-- R257: Quit clears `running` and nothing else, and no event still pending has an effect afterwards; a run ended
by it is a clean stop: from a running state that meets the invariant (StepKeepsInvariant) no fault record is held.
That Quit is accepted in every state, Paused and a key wait included, and that Stopped is absorbing is the spec's
decision D25 (log 20). -/
def Obligations.QuitIsACleanStop : Prop :=
  ∀ s : State, ∃ t, applyEvent .quit s = .next t ∧ t.running = false ∧ t.fault = s.fault ∧
    t = { s with running := t.running } ∧ (∀ e : Event, applyEvent e t = .next t) ∧
    (s.Inv → s.running = true → t.fault = none)

/-- R260 (that Present clears the flag is the spec's decision D20, log 18): when running and a redraw is asked
for, the sink receives the grid as it is and the request is consumed; otherwise nothing happens. -/
def Obligations.PresentHandsOverTheGrid : Prop :=
  ∀ s : State,
    (s.running = true → s.needsRedraw = true →
      s.presentedPicture = some s.disp ∧
      applyEvent .present s = .next { s with needsRedraw := false }) ∧
    ((s.running = false ∨ s.needsRedraw = false) →
      s.presentedPicture = none ∧ applyEvent .present s = .next s)

/-- R249 (the transitions the document does not draw are the spec's decision D25, log 20): which events leave
each run state. -/
def Obligations.RunStateIsLeftByNamedEvents : Prop :=
  ∀ (s t : State) (e : Event), applyEvent e s = .next t → t.runState ≠ s.runState →
    (s.runState = .running → e = .pauseToggle ∨ e = .quit ∨ e = .cpuStep) ∧
    (s.runState = .paused → e = .pauseToggle ∨ e = .quit) ∧
    (s.runState = .waitingForKey → (∃ k, e = .keyDown k) ∨ e = .pauseToggle ∨ e = .quit) ∧
    s.runState ≠ .stopped

/-- R265: the beep starts exactly on an FX18 that writes a non-zero value while ST is 0, and stops exactly on an
FX18 that writes 0 or a tick that takes ST from 1 to 0; no other instruction makes an edge. What a tick does to
ST (R253) is the spec's decision D11 (PRESUMED, log 16). -/
def Obligations.BeepEdgesComeFromSoundTimer : Prop :=
  (∀ (i : Instr) (s t : State), exec i s = .next t → t.fault = none →
    (audioSignal s t = some .startBeep ↔
      ∃ x, i = .ldStVx x ∧ s.st.toNat = 0 ∧ (s.readV x).toNat ≠ 0) ∧
    (audioSignal s t = some .stopBeep ↔
      ∃ x, i = .ldStVx x ∧ s.st.toNat ≠ 0 ∧ (s.readV x).toNat = 0)) ∧
  (∀ s t : State, applyEvent .timerTick s = .next t →
    audioSignal s t ≠ some .startBeep ∧
    (audioSignal s t = some .stopBeep ↔
      s.running = true ∧ s.paused = false ∧ s.st.toNat = 1))

/-! ### The scheduler -/

/-- R258 (order of the listing: log 6; time in integers, the spec's decision D19: log 7; the bound: log 8): an
iteration, when running and not paused, grows both accumulators by the elapsed time, issues as many steps and
ticks as fit (at most MAX_CATCHUP of each) and keeps the rest, then presents; otherwise it only presents. Nothing
else changes. -/
def Obligations.IterationDrainsAccumulators : Prop :=
  ∀ (s : State) (dt : Nat) (rest : List Input), s.agenda = .iterate dt :: rest → s.cfg.wf = true →
    (s.running = true → s.paused = false →
      ∃ t steps ticks, step s = .next t ∧
        t.agenda = List.replicate steps (.event .cpuStep) ++
          List.replicate ticks (.event .timerTick) ++ .event .present :: rest ∧
        t.cpuAcc + steps * s.cfg.timeUnit = s.cpuAcc + dt * s.cfg.instructionsPerSecond ∧
        t.timerAcc + ticks * s.cfg.timeUnit = s.timerAcc + dt * 60 ∧
        (s.cfg.maxCatchup = none → t.cpuAcc < s.cfg.timeUnit ∧ t.timerAcc < s.cfg.timeUnit) ∧
        (∀ m, s.cfg.maxCatchup = some m → steps ≤ m ∧ ticks ≤ m ∧
          (t.cpuAcc < s.cfg.timeUnit ∨ steps = m) ∧ (t.timerAcc < s.cfg.timeUnit ∨ ticks = m)) ∧
        t = { s with agenda := t.agenda, cpuAcc := t.cpuAcc, timerAcc := t.timerAcc }) ∧
    ((s.running = false ∨ s.paused = true) →
      step s = .next { s with agenda := .event .present :: rest })

/-- R259: however elapsed time is divided over iterations, from empty accumulators exactly
floor(T * instructions_per_second) CPU steps and floor(T * 60) timer ticks are issued when MAX_CATCHUP never
cuts (the spec's own inference from R258); in exactly one second at 500, exactly 500 and 60. Time is in units of
1 / timeUnit second (the spec's decision D19, log 7). -/
def Obligations.SchedulerCountsAreExact : Prop :=
  ∀ (c : Cfg) (dts : List Nat), c.wf = true → c.maxCatchup = none →
    issuedOver c 0 0 dts =
      (dts.sum * c.instructionsPerSecond / c.timeUnit, dts.sum * 60 / c.timeUnit) ∧
    (dts.sum = c.timeUnit → c.instructionsPerSecond = 500 → issuedOver c 0 0 dts = (500, 60))
end

