-- ==== Sys2Proof/Laws/Decode.lean ====
section
/-!
SUPPORT. The fields of a word built by each format, and the two bytes of a word.
-/

namespace Sys2Proof

/-- The high part of two joined bit vectors. -/
theorem extract_append_high {n m : Nat} (a : BitVec n) (b : BitVec m) :
    (a ++ b).extractLsb' m n = a := by
  apply BitVec.eq_of_getLsbD_eq
  intro i hi
  simp [BitVec.getLsbD_append, hi]

/-- A slice within the low part of two joined bit vectors. -/
theorem extract_append_low {n m : Nat} (a : BitVec n) (b : BitVec m) {lo len : Nat}
    (h : lo + len ≤ m) : (a ++ b).extractLsb' lo len = b.extractLsb' lo len := by
  apply BitVec.eq_of_getLsbD_eq
  intro i hi
  have : lo + i < m := by omega
  simp [BitVec.getLsbD_append, hi, this]

/-- The whole of a bit vector as a slice. -/
theorem extract_all {n : Nat} (a : BitVec n) : a.extractLsb' 0 n = a := by
  apply BitVec.eq_of_getLsbD_eq
  intro i hi
  simp [hi]

/-- Masking two joined bit vectors masks each. -/
theorem append_and {n m : Nat} (a c : BitVec n) (b d : BitVec m) :
    (a ++ b) &&& (c ++ d) = (a &&& c) ++ (b &&& d) := BitVec.and_append

section Fields

variable (op : Nibble) (x y : RegIdx) (n : Nibble) (nn : Byte) (nnn : Addr12)

@[simp] theorem fieldTop_formatNNN : fieldTop (formatNNN op nnn) = op :=
  extract_append_high op nnn

@[simp] theorem fieldNNN_formatNNN : fieldNNN (formatNNN op nnn) = nnn :=
  (extract_append_low op nnn (by decide)).trans (extract_all nnn)

@[simp] theorem fieldTop_formatXNN : fieldTop (formatXNN op x nn) = op :=
  extract_append_high op (x ++ nn : Addr12)

@[simp] theorem fieldX_formatXNN : fieldX (formatXNN op x nn) = x :=
  (extract_append_low op (x ++ nn : Addr12) (by decide)).trans (extract_append_high x nn)

@[simp] theorem fieldNN_formatXNN : fieldNN (formatXNN op x nn) = nn :=
  (extract_append_low op (x ++ nn : Addr12) (by decide)).trans
    ((extract_append_low x nn (by decide)).trans (extract_all nn))

@[simp] theorem fieldTop_formatXYN : fieldTop (formatXYN op x y n) = op :=
  extract_append_high op (x ++ (y ++ n : Byte) : Addr12)

@[simp] theorem fieldX_formatXYN : fieldX (formatXYN op x y n) = x :=
  (extract_append_low op (x ++ (y ++ n : Byte) : Addr12) (by decide)).trans
    (extract_append_high x (y ++ n : Byte))

@[simp] theorem fieldY_formatXYN : fieldY (formatXYN op x y n) = y :=
  (extract_append_low op (x ++ (y ++ n : Byte) : Addr12) (by decide)).trans
    ((extract_append_low x (y ++ n : Byte) (by decide)).trans (extract_append_high y n))

@[simp] theorem fieldN_formatXYN : fieldN (formatXYN op x y n) = n :=
  (extract_append_low op (x ++ (y ++ n : Byte) : Addr12) (by decide)).trans
    ((extract_append_low x (y ++ n : Byte) (by decide)).trans
      ((extract_append_low y n (by decide)).trans (extract_all n)))

end Fields

@[simp] theorem highByte_wordOfBytes (hi lo : Byte) : highByte (wordOfBytes hi lo) = hi :=
  extract_append_high hi lo

@[simp] theorem lowByte_wordOfBytes (hi lo : Byte) : lowByte (wordOfBytes hi lo) = lo :=
  (extract_append_low hi lo (by decide)).trans (extract_all lo)

/-- A word is its two bytes, high byte first (R91). -/
@[simp] theorem wordOfBytes_bytes (w : Word) : wordOfBytes (highByte w) (lowByte w) = w := by
  have hw := w.isLt
  apply BitVec.eq_of_toNat_eq
  unfold wordOfBytes highByte lowByte
  rw [BitVec.toNat_append, BitVec.extractLsb'_toNat, BitVec.extractLsb'_toNat,
    Nat.shiftLeft_eq, ← Nat.shiftLeft_eq, ← Nat.shiftLeft_add_eq_or_of_lt (by omega),
    Nat.shiftLeft_eq, Nat.shiftRight_eq_div_pow, Nat.shiftRight_eq_div_pow]
  omega

/-- Decoding two bytes is decoding the word they make; nothing is left over. -/
theorem decode_pair (hi lo : Byte) : decode [hi, lo] =
    match decodeWord (wordOfBytes hi lo) with
    | .ok i => .ok (i, [])
    | .error e => .error e := rfl

theorem decodeFamily0_error {w : Word} {e : DecodeError} (h : decodeFamily0 w = .error e) :
    e = .unrecognizedOpcode w := by
  unfold decodeFamily0 at h
  iterate 2 (split at h; · cases h)
  exact (Except.error.inj h).symm

theorem decodeFamily8_error {w : Word} {e : DecodeError} (h : decodeFamily8 w = .error e) :
    e = .unrecognizedOpcode w := by
  unfold decodeFamily8 at h
  iterate 9 (split at h; · cases h)
  exact (Except.error.inj h).symm

theorem decodeFamilyE_error {w : Word} {e : DecodeError} (h : decodeFamilyE w = .error e) :
    e = .unrecognizedOpcode w := by
  unfold decodeFamilyE at h
  iterate 2 (split at h; · cases h)
  exact (Except.error.inj h).symm

theorem decodeFamilyF_error {w : Word} {e : DecodeError} (h : decodeFamilyF w = .error e) :
    e = .unrecognizedOpcode w := by
  unfold decodeFamilyF at h
  iterate 9 (split at h; · cases h)
  exact (Except.error.inj h).symm

theorem decodeSkipReg_error {w : Word} {i : Instr} {e : DecodeError}
    (h : decodeSkipReg w i = .error e) : e = .unrecognizedOpcode w := by
  unfold decodeSkipReg at h
  split at h
  · cases h
  · exact (Except.error.inj h).symm

/-- The error of the word decoder always names the word itself (R98). -/
theorem decodeWord_error {w : Word} {e : DecodeError} (h : decodeWord w = .error e) :
    e = .unrecognizedOpcode w := by
  unfold decodeWord at h
  split at h
  all_goals first
    | exact decodeFamily0_error h
    | exact decodeSkipReg_error h
    | exact decodeFamily8_error h
    | exact decodeFamilyE_error h
    | exact decodeFamilyF_error h
    | exact (Except.error.inj h).symm
    | cases h

/-! ### A word is the format of its own fields (R92, R93) -/

theorem formatNNN_fields (w : Word) : formatNNN (fieldTop w) (fieldNNN w) = w := by
  apply BitVec.eq_of_getLsbD_eq
  intro i hi
  unfold formatNNN fieldTop fieldNNN
  rw [BitVec.getLsbD_append]
  simp only [BitVec.getLsbD_extractLsb']
  by_cases h : i < 12
  · simp [h]
  · have e : 12 + (i - 12) = i := by omega
    have e2 : i - 12 < 4 := by omega
    simp only [h, e, e2, decide_false, decide_true, Bool.true_and]
    rfl

theorem formatXNN_fields (w : Word) : formatXNN (fieldTop w) (fieldX w) (fieldNN w) = w := by
  have join : (fieldX w ++ fieldNN w : Addr12) = fieldNNN w := by
    apply BitVec.eq_of_getLsbD_eq
    intro i hi
    unfold fieldX fieldNNN fieldNN
    rw [BitVec.getLsbD_append]
    simp only [BitVec.getLsbD_extractLsb']
    by_cases h : i < 8
    · have h12 : i < 12 := by omega
      simp [h, h12]
    · have e : 8 + (i - 8) = i := by omega
      have h4 : i - 8 < 4 := by omega
      simp [h, e, h4, hi]
  exact (congrArg (formatNNN (fieldTop w)) join).trans (formatNNN_fields w)

theorem formatXYN_fields (w : Word) :
    formatXYN (fieldTop w) (fieldX w) (fieldY w) (fieldN w) = w := by
  have join : (fieldY w ++ fieldN w : Byte) = fieldNN w := by
    apply BitVec.eq_of_getLsbD_eq
    intro i hi
    unfold fieldN fieldY fieldNN
    rw [BitVec.getLsbD_append]
    simp only [BitVec.getLsbD_extractLsb']
    by_cases h : i < 4
    · have h8 : i < 8 := by omega
      simp [h, h8]
    · have e : 4 + (i - 4) = i := by omega
      have h4 : i - 4 < 4 := by omega
      simp [h, e, h4, hi]
  exact (congrArg (formatXNN (fieldTop w) (fieldX w)) join).trans (formatXNN_fields w)

/-- Decoding two bytes succeeds exactly when the word they make is recognized. -/
theorem decode_pair_ok {hi lo : Byte} {i : Instr} :
    decode [hi, lo] = .ok (i, []) ↔ decodeWord (wordOfBytes hi lo) = .ok i := by
  rw [decode_pair]
  cases decodeWord (wordOfBytes hi lo) with
  | ok j =>
    constructor
    · intro h
      injection h with h
      injection h with h _
      rw [h]
    · intro h
      injection h with h
      rw [h]
  | error e =>
    constructor
    · intro h
      cases h
    · intro h
      cases h

end Sys2Proof
end

