-- ==== Sys2Proof/Laws/State.lean ====
section
/-!
SUPPORT. One lemma for each field and each update of the state, true by rfl, so that no later proof unfolds
a record update.
-/

namespace Sys2Proof.Machine

namespace State

variable (s : State)

@[simp] theorem setPc_v (a : Word) : (s.setPc a).v = s.v := rfl
@[simp] theorem setPc_pc (a : Word) : (s.setPc a).pc = a := rfl
@[simp] theorem setPc_i (a : Word) : (s.setPc a).i = s.i := rfl
@[simp] theorem setPc_dt (a : Word) : (s.setPc a).dt = s.dt := rfl
@[simp] theorem setPc_st (a : Word) : (s.setPc a).st = s.st := rfl
@[simp] theorem setPc_stack (a : Word) : (s.setPc a).stack = s.stack := rfl
@[simp] theorem setPc_sp (a : Word) : (s.setPc a).sp = s.sp := rfl
@[simp] theorem setPc_mem (a : Word) : (s.setPc a).mem = s.mem := rfl
@[simp] theorem setPc_disp (a : Word) : (s.setPc a).disp = s.disp := rfl
@[simp] theorem setPc_keys (a : Word) : (s.setPc a).keys = s.keys := rfl
@[simp] theorem setPc_running (a : Word) : (s.setPc a).running = s.running := rfl
@[simp] theorem setPc_paused (a : Word) : (s.setPc a).paused = s.paused := rfl
@[simp] theorem setPc_needsRedraw (a : Word) : (s.setPc a).needsRedraw = s.needsRedraw := rfl
@[simp] theorem setPc_waiting (a : Word) : (s.setPc a).waiting = s.waiting := rfl
@[simp] theorem setPc_waitReg (a : Word) : (s.setPc a).waitReg = s.waitReg := rfl
@[simp] theorem setPc_fault (a : Word) : (s.setPc a).fault = s.fault := rfl
@[simp] theorem setPc_cpuAcc (a : Word) : (s.setPc a).cpuAcc = s.cpuAcc := rfl
@[simp] theorem setPc_timerAcc (a : Word) : (s.setPc a).timerAcc = s.timerAcc := rfl
@[simp] theorem setPc_cfg (a : Word) : (s.setPc a).cfg = s.cfg := rfl
@[simp] theorem setPc_agenda (a : Word) : (s.setPc a).agenda = s.agenda := rfl
@[simp] theorem setPc_draws (a : Word) : (s.setPc a).draws = s.draws := rfl

@[simp] theorem setI_v (a : Word) : (s.setI a).v = s.v := rfl
@[simp] theorem setI_pc (a : Word) : (s.setI a).pc = s.pc := rfl
@[simp] theorem setI_i (a : Word) : (s.setI a).i = a := rfl
@[simp] theorem setI_dt (a : Word) : (s.setI a).dt = s.dt := rfl
@[simp] theorem setI_st (a : Word) : (s.setI a).st = s.st := rfl
@[simp] theorem setI_stack (a : Word) : (s.setI a).stack = s.stack := rfl
@[simp] theorem setI_sp (a : Word) : (s.setI a).sp = s.sp := rfl
@[simp] theorem setI_mem (a : Word) : (s.setI a).mem = s.mem := rfl
@[simp] theorem setI_disp (a : Word) : (s.setI a).disp = s.disp := rfl
@[simp] theorem setI_keys (a : Word) : (s.setI a).keys = s.keys := rfl
@[simp] theorem setI_running (a : Word) : (s.setI a).running = s.running := rfl
@[simp] theorem setI_paused (a : Word) : (s.setI a).paused = s.paused := rfl
@[simp] theorem setI_needsRedraw (a : Word) : (s.setI a).needsRedraw = s.needsRedraw := rfl
@[simp] theorem setI_waiting (a : Word) : (s.setI a).waiting = s.waiting := rfl
@[simp] theorem setI_waitReg (a : Word) : (s.setI a).waitReg = s.waitReg := rfl
@[simp] theorem setI_fault (a : Word) : (s.setI a).fault = s.fault := rfl
@[simp] theorem setI_cpuAcc (a : Word) : (s.setI a).cpuAcc = s.cpuAcc := rfl
@[simp] theorem setI_timerAcc (a : Word) : (s.setI a).timerAcc = s.timerAcc := rfl
@[simp] theorem setI_cfg (a : Word) : (s.setI a).cfg = s.cfg := rfl
@[simp] theorem setI_agenda (a : Word) : (s.setI a).agenda = s.agenda := rfl
@[simp] theorem setI_draws (a : Word) : (s.setI a).draws = s.draws := rfl

@[simp] theorem setDt_v (b : Byte) : (s.setDt b).v = s.v := rfl
@[simp] theorem setDt_pc (b : Byte) : (s.setDt b).pc = s.pc := rfl
@[simp] theorem setDt_i (b : Byte) : (s.setDt b).i = s.i := rfl
@[simp] theorem setDt_dt (b : Byte) : (s.setDt b).dt = b := rfl
@[simp] theorem setDt_st (b : Byte) : (s.setDt b).st = s.st := rfl
@[simp] theorem setDt_stack (b : Byte) : (s.setDt b).stack = s.stack := rfl
@[simp] theorem setDt_sp (b : Byte) : (s.setDt b).sp = s.sp := rfl
@[simp] theorem setDt_mem (b : Byte) : (s.setDt b).mem = s.mem := rfl
@[simp] theorem setDt_disp (b : Byte) : (s.setDt b).disp = s.disp := rfl
@[simp] theorem setDt_keys (b : Byte) : (s.setDt b).keys = s.keys := rfl
@[simp] theorem setDt_running (b : Byte) : (s.setDt b).running = s.running := rfl
@[simp] theorem setDt_paused (b : Byte) : (s.setDt b).paused = s.paused := rfl
@[simp] theorem setDt_needsRedraw (b : Byte) : (s.setDt b).needsRedraw = s.needsRedraw := rfl
@[simp] theorem setDt_waiting (b : Byte) : (s.setDt b).waiting = s.waiting := rfl
@[simp] theorem setDt_waitReg (b : Byte) : (s.setDt b).waitReg = s.waitReg := rfl
@[simp] theorem setDt_fault (b : Byte) : (s.setDt b).fault = s.fault := rfl
@[simp] theorem setDt_cpuAcc (b : Byte) : (s.setDt b).cpuAcc = s.cpuAcc := rfl
@[simp] theorem setDt_timerAcc (b : Byte) : (s.setDt b).timerAcc = s.timerAcc := rfl
@[simp] theorem setDt_cfg (b : Byte) : (s.setDt b).cfg = s.cfg := rfl
@[simp] theorem setDt_agenda (b : Byte) : (s.setDt b).agenda = s.agenda := rfl
@[simp] theorem setDt_draws (b : Byte) : (s.setDt b).draws = s.draws := rfl

@[simp] theorem setSt_v (b : Byte) : (s.setSt b).v = s.v := rfl
@[simp] theorem setSt_pc (b : Byte) : (s.setSt b).pc = s.pc := rfl
@[simp] theorem setSt_i (b : Byte) : (s.setSt b).i = s.i := rfl
@[simp] theorem setSt_dt (b : Byte) : (s.setSt b).dt = s.dt := rfl
@[simp] theorem setSt_st (b : Byte) : (s.setSt b).st = b := rfl
@[simp] theorem setSt_stack (b : Byte) : (s.setSt b).stack = s.stack := rfl
@[simp] theorem setSt_sp (b : Byte) : (s.setSt b).sp = s.sp := rfl
@[simp] theorem setSt_mem (b : Byte) : (s.setSt b).mem = s.mem := rfl
@[simp] theorem setSt_disp (b : Byte) : (s.setSt b).disp = s.disp := rfl
@[simp] theorem setSt_keys (b : Byte) : (s.setSt b).keys = s.keys := rfl
@[simp] theorem setSt_running (b : Byte) : (s.setSt b).running = s.running := rfl
@[simp] theorem setSt_paused (b : Byte) : (s.setSt b).paused = s.paused := rfl
@[simp] theorem setSt_needsRedraw (b : Byte) : (s.setSt b).needsRedraw = s.needsRedraw := rfl
@[simp] theorem setSt_waiting (b : Byte) : (s.setSt b).waiting = s.waiting := rfl
@[simp] theorem setSt_waitReg (b : Byte) : (s.setSt b).waitReg = s.waitReg := rfl
@[simp] theorem setSt_fault (b : Byte) : (s.setSt b).fault = s.fault := rfl
@[simp] theorem setSt_cpuAcc (b : Byte) : (s.setSt b).cpuAcc = s.cpuAcc := rfl
@[simp] theorem setSt_timerAcc (b : Byte) : (s.setSt b).timerAcc = s.timerAcc := rfl
@[simp] theorem setSt_cfg (b : Byte) : (s.setSt b).cfg = s.cfg := rfl
@[simp] theorem setSt_agenda (b : Byte) : (s.setSt b).agenda = s.agenda := rfl
@[simp] theorem setSt_draws (b : Byte) : (s.setSt b).draws = s.draws := rfl

@[simp] theorem setMem_v (m : Memory) : (s.setMem m).v = s.v := rfl
@[simp] theorem setMem_pc (m : Memory) : (s.setMem m).pc = s.pc := rfl
@[simp] theorem setMem_i (m : Memory) : (s.setMem m).i = s.i := rfl
@[simp] theorem setMem_dt (m : Memory) : (s.setMem m).dt = s.dt := rfl
@[simp] theorem setMem_st (m : Memory) : (s.setMem m).st = s.st := rfl
@[simp] theorem setMem_stack (m : Memory) : (s.setMem m).stack = s.stack := rfl
@[simp] theorem setMem_sp (m : Memory) : (s.setMem m).sp = s.sp := rfl
@[simp] theorem setMem_mem (m : Memory) : (s.setMem m).mem = m := rfl
@[simp] theorem setMem_disp (m : Memory) : (s.setMem m).disp = s.disp := rfl
@[simp] theorem setMem_keys (m : Memory) : (s.setMem m).keys = s.keys := rfl
@[simp] theorem setMem_running (m : Memory) : (s.setMem m).running = s.running := rfl
@[simp] theorem setMem_paused (m : Memory) : (s.setMem m).paused = s.paused := rfl
@[simp] theorem setMem_needsRedraw (m : Memory) : (s.setMem m).needsRedraw = s.needsRedraw := rfl
@[simp] theorem setMem_waiting (m : Memory) : (s.setMem m).waiting = s.waiting := rfl
@[simp] theorem setMem_waitReg (m : Memory) : (s.setMem m).waitReg = s.waitReg := rfl
@[simp] theorem setMem_fault (m : Memory) : (s.setMem m).fault = s.fault := rfl
@[simp] theorem setMem_cpuAcc (m : Memory) : (s.setMem m).cpuAcc = s.cpuAcc := rfl
@[simp] theorem setMem_timerAcc (m : Memory) : (s.setMem m).timerAcc = s.timerAcc := rfl
@[simp] theorem setMem_cfg (m : Memory) : (s.setMem m).cfg = s.cfg := rfl
@[simp] theorem setMem_agenda (m : Memory) : (s.setMem m).agenda = s.agenda := rfl
@[simp] theorem setMem_draws (m : Memory) : (s.setMem m).draws = s.draws := rfl

@[simp] theorem setDisp_v (d : Display) : (s.setDisp d).v = s.v := rfl
@[simp] theorem setDisp_pc (d : Display) : (s.setDisp d).pc = s.pc := rfl
@[simp] theorem setDisp_i (d : Display) : (s.setDisp d).i = s.i := rfl
@[simp] theorem setDisp_dt (d : Display) : (s.setDisp d).dt = s.dt := rfl
@[simp] theorem setDisp_st (d : Display) : (s.setDisp d).st = s.st := rfl
@[simp] theorem setDisp_stack (d : Display) : (s.setDisp d).stack = s.stack := rfl
@[simp] theorem setDisp_sp (d : Display) : (s.setDisp d).sp = s.sp := rfl
@[simp] theorem setDisp_mem (d : Display) : (s.setDisp d).mem = s.mem := rfl
@[simp] theorem setDisp_disp (d : Display) : (s.setDisp d).disp = d := rfl
@[simp] theorem setDisp_keys (d : Display) : (s.setDisp d).keys = s.keys := rfl
@[simp] theorem setDisp_running (d : Display) : (s.setDisp d).running = s.running := rfl
@[simp] theorem setDisp_paused (d : Display) : (s.setDisp d).paused = s.paused := rfl
@[simp] theorem setDisp_needsRedraw (d : Display) : (s.setDisp d).needsRedraw = s.needsRedraw := rfl
@[simp] theorem setDisp_waiting (d : Display) : (s.setDisp d).waiting = s.waiting := rfl
@[simp] theorem setDisp_waitReg (d : Display) : (s.setDisp d).waitReg = s.waitReg := rfl
@[simp] theorem setDisp_fault (d : Display) : (s.setDisp d).fault = s.fault := rfl
@[simp] theorem setDisp_cpuAcc (d : Display) : (s.setDisp d).cpuAcc = s.cpuAcc := rfl
@[simp] theorem setDisp_timerAcc (d : Display) : (s.setDisp d).timerAcc = s.timerAcc := rfl
@[simp] theorem setDisp_cfg (d : Display) : (s.setDisp d).cfg = s.cfg := rfl
@[simp] theorem setDisp_agenda (d : Display) : (s.setDisp d).agenda = s.agenda := rfl
@[simp] theorem setDisp_draws (d : Display) : (s.setDisp d).draws = s.draws := rfl

@[simp] theorem setNeedsRedraw_v (b : Bool) : (s.setNeedsRedraw b).v = s.v := rfl
@[simp] theorem setNeedsRedraw_pc (b : Bool) : (s.setNeedsRedraw b).pc = s.pc := rfl
@[simp] theorem setNeedsRedraw_i (b : Bool) : (s.setNeedsRedraw b).i = s.i := rfl
@[simp] theorem setNeedsRedraw_dt (b : Bool) : (s.setNeedsRedraw b).dt = s.dt := rfl
@[simp] theorem setNeedsRedraw_st (b : Bool) : (s.setNeedsRedraw b).st = s.st := rfl
@[simp] theorem setNeedsRedraw_stack (b : Bool) : (s.setNeedsRedraw b).stack = s.stack := rfl
@[simp] theorem setNeedsRedraw_sp (b : Bool) : (s.setNeedsRedraw b).sp = s.sp := rfl
@[simp] theorem setNeedsRedraw_mem (b : Bool) : (s.setNeedsRedraw b).mem = s.mem := rfl
@[simp] theorem setNeedsRedraw_disp (b : Bool) : (s.setNeedsRedraw b).disp = s.disp := rfl
@[simp] theorem setNeedsRedraw_keys (b : Bool) : (s.setNeedsRedraw b).keys = s.keys := rfl
@[simp] theorem setNeedsRedraw_running (b : Bool) : (s.setNeedsRedraw b).running = s.running := rfl
@[simp] theorem setNeedsRedraw_paused (b : Bool) : (s.setNeedsRedraw b).paused = s.paused := rfl
@[simp] theorem setNeedsRedraw_needsRedraw (b : Bool) : (s.setNeedsRedraw b).needsRedraw = b := rfl
@[simp] theorem setNeedsRedraw_waiting (b : Bool) : (s.setNeedsRedraw b).waiting = s.waiting := rfl
@[simp] theorem setNeedsRedraw_waitReg (b : Bool) : (s.setNeedsRedraw b).waitReg = s.waitReg := rfl
@[simp] theorem setNeedsRedraw_fault (b : Bool) : (s.setNeedsRedraw b).fault = s.fault := rfl
@[simp] theorem setNeedsRedraw_cpuAcc (b : Bool) : (s.setNeedsRedraw b).cpuAcc = s.cpuAcc := rfl
@[simp] theorem setNeedsRedraw_timerAcc (b : Bool) : (s.setNeedsRedraw b).timerAcc = s.timerAcc := rfl
@[simp] theorem setNeedsRedraw_cfg (b : Bool) : (s.setNeedsRedraw b).cfg = s.cfg := rfl
@[simp] theorem setNeedsRedraw_agenda (b : Bool) : (s.setNeedsRedraw b).agenda = s.agenda := rfl
@[simp] theorem setNeedsRedraw_draws (b : Bool) : (s.setNeedsRedraw b).draws = s.draws := rfl

@[simp] theorem setRunning_v (b : Bool) : (s.setRunning b).v = s.v := rfl
@[simp] theorem setRunning_pc (b : Bool) : (s.setRunning b).pc = s.pc := rfl
@[simp] theorem setRunning_i (b : Bool) : (s.setRunning b).i = s.i := rfl
@[simp] theorem setRunning_dt (b : Bool) : (s.setRunning b).dt = s.dt := rfl
@[simp] theorem setRunning_st (b : Bool) : (s.setRunning b).st = s.st := rfl
@[simp] theorem setRunning_stack (b : Bool) : (s.setRunning b).stack = s.stack := rfl
@[simp] theorem setRunning_sp (b : Bool) : (s.setRunning b).sp = s.sp := rfl
@[simp] theorem setRunning_mem (b : Bool) : (s.setRunning b).mem = s.mem := rfl
@[simp] theorem setRunning_disp (b : Bool) : (s.setRunning b).disp = s.disp := rfl
@[simp] theorem setRunning_keys (b : Bool) : (s.setRunning b).keys = s.keys := rfl
@[simp] theorem setRunning_running (b : Bool) : (s.setRunning b).running = b := rfl
@[simp] theorem setRunning_paused (b : Bool) : (s.setRunning b).paused = s.paused := rfl
@[simp] theorem setRunning_needsRedraw (b : Bool) : (s.setRunning b).needsRedraw = s.needsRedraw := rfl
@[simp] theorem setRunning_waiting (b : Bool) : (s.setRunning b).waiting = s.waiting := rfl
@[simp] theorem setRunning_waitReg (b : Bool) : (s.setRunning b).waitReg = s.waitReg := rfl
@[simp] theorem setRunning_fault (b : Bool) : (s.setRunning b).fault = s.fault := rfl
@[simp] theorem setRunning_cpuAcc (b : Bool) : (s.setRunning b).cpuAcc = s.cpuAcc := rfl
@[simp] theorem setRunning_timerAcc (b : Bool) : (s.setRunning b).timerAcc = s.timerAcc := rfl
@[simp] theorem setRunning_cfg (b : Bool) : (s.setRunning b).cfg = s.cfg := rfl
@[simp] theorem setRunning_agenda (b : Bool) : (s.setRunning b).agenda = s.agenda := rfl
@[simp] theorem setRunning_draws (b : Bool) : (s.setRunning b).draws = s.draws := rfl

@[simp] theorem setPaused_v (b : Bool) : (s.setPaused b).v = s.v := rfl
@[simp] theorem setPaused_pc (b : Bool) : (s.setPaused b).pc = s.pc := rfl
@[simp] theorem setPaused_i (b : Bool) : (s.setPaused b).i = s.i := rfl
@[simp] theorem setPaused_dt (b : Bool) : (s.setPaused b).dt = s.dt := rfl
@[simp] theorem setPaused_st (b : Bool) : (s.setPaused b).st = s.st := rfl
@[simp] theorem setPaused_stack (b : Bool) : (s.setPaused b).stack = s.stack := rfl
@[simp] theorem setPaused_sp (b : Bool) : (s.setPaused b).sp = s.sp := rfl
@[simp] theorem setPaused_mem (b : Bool) : (s.setPaused b).mem = s.mem := rfl
@[simp] theorem setPaused_disp (b : Bool) : (s.setPaused b).disp = s.disp := rfl
@[simp] theorem setPaused_keys (b : Bool) : (s.setPaused b).keys = s.keys := rfl
@[simp] theorem setPaused_running (b : Bool) : (s.setPaused b).running = s.running := rfl
@[simp] theorem setPaused_paused (b : Bool) : (s.setPaused b).paused = b := rfl
@[simp] theorem setPaused_needsRedraw (b : Bool) : (s.setPaused b).needsRedraw = s.needsRedraw := rfl
@[simp] theorem setPaused_waiting (b : Bool) : (s.setPaused b).waiting = s.waiting := rfl
@[simp] theorem setPaused_waitReg (b : Bool) : (s.setPaused b).waitReg = s.waitReg := rfl
@[simp] theorem setPaused_fault (b : Bool) : (s.setPaused b).fault = s.fault := rfl
@[simp] theorem setPaused_cpuAcc (b : Bool) : (s.setPaused b).cpuAcc = s.cpuAcc := rfl
@[simp] theorem setPaused_timerAcc (b : Bool) : (s.setPaused b).timerAcc = s.timerAcc := rfl
@[simp] theorem setPaused_cfg (b : Bool) : (s.setPaused b).cfg = s.cfg := rfl
@[simp] theorem setPaused_agenda (b : Bool) : (s.setPaused b).agenda = s.agenda := rfl
@[simp] theorem setPaused_draws (b : Bool) : (s.setPaused b).draws = s.draws := rfl

@[simp] theorem startWait_v (x : RegIdx) : (s.startWait x).v = s.v := rfl
@[simp] theorem startWait_pc (x : RegIdx) : (s.startWait x).pc = s.pc := rfl
@[simp] theorem startWait_i (x : RegIdx) : (s.startWait x).i = s.i := rfl
@[simp] theorem startWait_dt (x : RegIdx) : (s.startWait x).dt = s.dt := rfl
@[simp] theorem startWait_st (x : RegIdx) : (s.startWait x).st = s.st := rfl
@[simp] theorem startWait_stack (x : RegIdx) : (s.startWait x).stack = s.stack := rfl
@[simp] theorem startWait_sp (x : RegIdx) : (s.startWait x).sp = s.sp := rfl
@[simp] theorem startWait_mem (x : RegIdx) : (s.startWait x).mem = s.mem := rfl
@[simp] theorem startWait_disp (x : RegIdx) : (s.startWait x).disp = s.disp := rfl
@[simp] theorem startWait_keys (x : RegIdx) : (s.startWait x).keys = s.keys := rfl
@[simp] theorem startWait_running (x : RegIdx) : (s.startWait x).running = s.running := rfl
@[simp] theorem startWait_paused (x : RegIdx) : (s.startWait x).paused = s.paused := rfl
@[simp] theorem startWait_needsRedraw (x : RegIdx) : (s.startWait x).needsRedraw = s.needsRedraw := rfl
@[simp] theorem startWait_waiting (x : RegIdx) : (s.startWait x).waiting = true := rfl
@[simp] theorem startWait_waitReg (x : RegIdx) : (s.startWait x).waitReg = x := rfl
@[simp] theorem startWait_fault (x : RegIdx) : (s.startWait x).fault = s.fault := rfl
@[simp] theorem startWait_cpuAcc (x : RegIdx) : (s.startWait x).cpuAcc = s.cpuAcc := rfl
@[simp] theorem startWait_timerAcc (x : RegIdx) : (s.startWait x).timerAcc = s.timerAcc := rfl
@[simp] theorem startWait_cfg (x : RegIdx) : (s.startWait x).cfg = s.cfg := rfl
@[simp] theorem startWait_agenda (x : RegIdx) : (s.startWait x).agenda = s.agenda := rfl
@[simp] theorem startWait_draws (x : RegIdx) : (s.startWait x).draws = s.draws := rfl

@[simp] theorem endWait_v : (s.endWait).v = s.v := rfl
@[simp] theorem endWait_pc : (s.endWait).pc = s.pc := rfl
@[simp] theorem endWait_i : (s.endWait).i = s.i := rfl
@[simp] theorem endWait_dt : (s.endWait).dt = s.dt := rfl
@[simp] theorem endWait_st : (s.endWait).st = s.st := rfl
@[simp] theorem endWait_stack : (s.endWait).stack = s.stack := rfl
@[simp] theorem endWait_sp : (s.endWait).sp = s.sp := rfl
@[simp] theorem endWait_mem : (s.endWait).mem = s.mem := rfl
@[simp] theorem endWait_disp : (s.endWait).disp = s.disp := rfl
@[simp] theorem endWait_keys : (s.endWait).keys = s.keys := rfl
@[simp] theorem endWait_running : (s.endWait).running = s.running := rfl
@[simp] theorem endWait_paused : (s.endWait).paused = s.paused := rfl
@[simp] theorem endWait_needsRedraw : (s.endWait).needsRedraw = s.needsRedraw := rfl
@[simp] theorem endWait_waiting : (s.endWait).waiting = false := rfl
@[simp] theorem endWait_waitReg : (s.endWait).waitReg = s.waitReg := rfl
@[simp] theorem endWait_fault : (s.endWait).fault = s.fault := rfl
@[simp] theorem endWait_cpuAcc : (s.endWait).cpuAcc = s.cpuAcc := rfl
@[simp] theorem endWait_timerAcc : (s.endWait).timerAcc = s.timerAcc := rfl
@[simp] theorem endWait_cfg : (s.endWait).cfg = s.cfg := rfl
@[simp] theorem endWait_agenda : (s.endWait).agenda = s.agenda := rfl
@[simp] theorem endWait_draws : (s.endWait).draws = s.draws := rfl

@[simp] theorem setAccumulators_v (m n : Nat) : (s.setAccumulators m n).v = s.v := rfl
@[simp] theorem setAccumulators_pc (m n : Nat) : (s.setAccumulators m n).pc = s.pc := rfl
@[simp] theorem setAccumulators_i (m n : Nat) : (s.setAccumulators m n).i = s.i := rfl
@[simp] theorem setAccumulators_dt (m n : Nat) : (s.setAccumulators m n).dt = s.dt := rfl
@[simp] theorem setAccumulators_st (m n : Nat) : (s.setAccumulators m n).st = s.st := rfl
@[simp] theorem setAccumulators_stack (m n : Nat) : (s.setAccumulators m n).stack = s.stack := rfl
@[simp] theorem setAccumulators_sp (m n : Nat) : (s.setAccumulators m n).sp = s.sp := rfl
@[simp] theorem setAccumulators_mem (m n : Nat) : (s.setAccumulators m n).mem = s.mem := rfl
@[simp] theorem setAccumulators_disp (m n : Nat) : (s.setAccumulators m n).disp = s.disp := rfl
@[simp] theorem setAccumulators_keys (m n : Nat) : (s.setAccumulators m n).keys = s.keys := rfl
@[simp] theorem setAccumulators_running (m n : Nat) : (s.setAccumulators m n).running = s.running := rfl
@[simp] theorem setAccumulators_paused (m n : Nat) : (s.setAccumulators m n).paused = s.paused := rfl
@[simp] theorem setAccumulators_needsRedraw (m n : Nat) : (s.setAccumulators m n).needsRedraw = s.needsRedraw := rfl
@[simp] theorem setAccumulators_waiting (m n : Nat) : (s.setAccumulators m n).waiting = s.waiting := rfl
@[simp] theorem setAccumulators_waitReg (m n : Nat) : (s.setAccumulators m n).waitReg = s.waitReg := rfl
@[simp] theorem setAccumulators_fault (m n : Nat) : (s.setAccumulators m n).fault = s.fault := rfl
@[simp] theorem setAccumulators_cpuAcc (m n : Nat) : (s.setAccumulators m n).cpuAcc = m := rfl
@[simp] theorem setAccumulators_timerAcc (m n : Nat) : (s.setAccumulators m n).timerAcc = n := rfl
@[simp] theorem setAccumulators_cfg (m n : Nat) : (s.setAccumulators m n).cfg = s.cfg := rfl
@[simp] theorem setAccumulators_agenda (m n : Nat) : (s.setAccumulators m n).agenda = s.agenda := rfl
@[simp] theorem setAccumulators_draws (m n : Nat) : (s.setAccumulators m n).draws = s.draws := rfl

@[simp] theorem setAgenda_v (l : List Input) : (s.setAgenda l).v = s.v := rfl
@[simp] theorem setAgenda_pc (l : List Input) : (s.setAgenda l).pc = s.pc := rfl
@[simp] theorem setAgenda_i (l : List Input) : (s.setAgenda l).i = s.i := rfl
@[simp] theorem setAgenda_dt (l : List Input) : (s.setAgenda l).dt = s.dt := rfl
@[simp] theorem setAgenda_st (l : List Input) : (s.setAgenda l).st = s.st := rfl
@[simp] theorem setAgenda_stack (l : List Input) : (s.setAgenda l).stack = s.stack := rfl
@[simp] theorem setAgenda_sp (l : List Input) : (s.setAgenda l).sp = s.sp := rfl
@[simp] theorem setAgenda_mem (l : List Input) : (s.setAgenda l).mem = s.mem := rfl
@[simp] theorem setAgenda_disp (l : List Input) : (s.setAgenda l).disp = s.disp := rfl
@[simp] theorem setAgenda_keys (l : List Input) : (s.setAgenda l).keys = s.keys := rfl
@[simp] theorem setAgenda_running (l : List Input) : (s.setAgenda l).running = s.running := rfl
@[simp] theorem setAgenda_paused (l : List Input) : (s.setAgenda l).paused = s.paused := rfl
@[simp] theorem setAgenda_needsRedraw (l : List Input) : (s.setAgenda l).needsRedraw = s.needsRedraw := rfl
@[simp] theorem setAgenda_waiting (l : List Input) : (s.setAgenda l).waiting = s.waiting := rfl
@[simp] theorem setAgenda_waitReg (l : List Input) : (s.setAgenda l).waitReg = s.waitReg := rfl
@[simp] theorem setAgenda_fault (l : List Input) : (s.setAgenda l).fault = s.fault := rfl
@[simp] theorem setAgenda_cpuAcc (l : List Input) : (s.setAgenda l).cpuAcc = s.cpuAcc := rfl
@[simp] theorem setAgenda_timerAcc (l : List Input) : (s.setAgenda l).timerAcc = s.timerAcc := rfl
@[simp] theorem setAgenda_cfg (l : List Input) : (s.setAgenda l).cfg = s.cfg := rfl
@[simp] theorem setAgenda_agenda (l : List Input) : (s.setAgenda l).agenda = l := rfl
@[simp] theorem setAgenda_draws (l : List Input) : (s.setAgenda l).draws = s.draws := rfl

@[simp] theorem countDraw_v : (s.countDraw).v = s.v := rfl
@[simp] theorem countDraw_pc : (s.countDraw).pc = s.pc := rfl
@[simp] theorem countDraw_i : (s.countDraw).i = s.i := rfl
@[simp] theorem countDraw_dt : (s.countDraw).dt = s.dt := rfl
@[simp] theorem countDraw_st : (s.countDraw).st = s.st := rfl
@[simp] theorem countDraw_stack : (s.countDraw).stack = s.stack := rfl
@[simp] theorem countDraw_sp : (s.countDraw).sp = s.sp := rfl
@[simp] theorem countDraw_mem : (s.countDraw).mem = s.mem := rfl
@[simp] theorem countDraw_disp : (s.countDraw).disp = s.disp := rfl
@[simp] theorem countDraw_keys : (s.countDraw).keys = s.keys := rfl
@[simp] theorem countDraw_running : (s.countDraw).running = s.running := rfl
@[simp] theorem countDraw_paused : (s.countDraw).paused = s.paused := rfl
@[simp] theorem countDraw_needsRedraw : (s.countDraw).needsRedraw = s.needsRedraw := rfl
@[simp] theorem countDraw_waiting : (s.countDraw).waiting = s.waiting := rfl
@[simp] theorem countDraw_waitReg : (s.countDraw).waitReg = s.waitReg := rfl
@[simp] theorem countDraw_fault : (s.countDraw).fault = s.fault := rfl
@[simp] theorem countDraw_cpuAcc : (s.countDraw).cpuAcc = s.cpuAcc := rfl
@[simp] theorem countDraw_timerAcc : (s.countDraw).timerAcc = s.timerAcc := rfl
@[simp] theorem countDraw_cfg : (s.countDraw).cfg = s.cfg := rfl
@[simp] theorem countDraw_agenda : (s.countDraw).agenda = s.agenda := rfl
@[simp] theorem countDraw_draws : (s.countDraw).draws = s.draws + 1 := rfl

@[simp] theorem writeV_v (r : RegIdx) (b : Byte) : (s.writeV r b).v = s.v.set r.toNat b := rfl
@[simp] theorem writeV_pc (r : RegIdx) (b : Byte) : (s.writeV r b).pc = s.pc := rfl
@[simp] theorem writeV_i (r : RegIdx) (b : Byte) : (s.writeV r b).i = s.i := rfl
@[simp] theorem writeV_dt (r : RegIdx) (b : Byte) : (s.writeV r b).dt = s.dt := rfl
@[simp] theorem writeV_st (r : RegIdx) (b : Byte) : (s.writeV r b).st = s.st := rfl
@[simp] theorem writeV_stack (r : RegIdx) (b : Byte) : (s.writeV r b).stack = s.stack := rfl
@[simp] theorem writeV_sp (r : RegIdx) (b : Byte) : (s.writeV r b).sp = s.sp := rfl
@[simp] theorem writeV_mem (r : RegIdx) (b : Byte) : (s.writeV r b).mem = s.mem := rfl
@[simp] theorem writeV_disp (r : RegIdx) (b : Byte) : (s.writeV r b).disp = s.disp := rfl
@[simp] theorem writeV_keys (r : RegIdx) (b : Byte) : (s.writeV r b).keys = s.keys := rfl
@[simp] theorem writeV_running (r : RegIdx) (b : Byte) : (s.writeV r b).running = s.running := rfl
@[simp] theorem writeV_paused (r : RegIdx) (b : Byte) : (s.writeV r b).paused = s.paused := rfl
@[simp] theorem writeV_needsRedraw (r : RegIdx) (b : Byte) : (s.writeV r b).needsRedraw = s.needsRedraw := rfl
@[simp] theorem writeV_waiting (r : RegIdx) (b : Byte) : (s.writeV r b).waiting = s.waiting := rfl
@[simp] theorem writeV_waitReg (r : RegIdx) (b : Byte) : (s.writeV r b).waitReg = s.waitReg := rfl
@[simp] theorem writeV_fault (r : RegIdx) (b : Byte) : (s.writeV r b).fault = s.fault := rfl
@[simp] theorem writeV_cpuAcc (r : RegIdx) (b : Byte) : (s.writeV r b).cpuAcc = s.cpuAcc := rfl
@[simp] theorem writeV_timerAcc (r : RegIdx) (b : Byte) : (s.writeV r b).timerAcc = s.timerAcc := rfl
@[simp] theorem writeV_cfg (r : RegIdx) (b : Byte) : (s.writeV r b).cfg = s.cfg := rfl
@[simp] theorem writeV_agenda (r : RegIdx) (b : Byte) : (s.writeV r b).agenda = s.agenda := rfl
@[simp] theorem writeV_draws (r : RegIdx) (b : Byte) : (s.writeV r b).draws = s.draws := rfl

@[simp] theorem memWrite_v (a : Nat) (x : Byte) : (s.memWrite a x).v = s.v := rfl
@[simp] theorem memWrite_pc (a : Nat) (x : Byte) : (s.memWrite a x).pc = s.pc := rfl
@[simp] theorem memWrite_i (a : Nat) (x : Byte) : (s.memWrite a x).i = s.i := rfl
@[simp] theorem memWrite_dt (a : Nat) (x : Byte) : (s.memWrite a x).dt = s.dt := rfl
@[simp] theorem memWrite_st (a : Nat) (x : Byte) : (s.memWrite a x).st = s.st := rfl
@[simp] theorem memWrite_stack (a : Nat) (x : Byte) : (s.memWrite a x).stack = s.stack := rfl
@[simp] theorem memWrite_sp (a : Nat) (x : Byte) : (s.memWrite a x).sp = s.sp := rfl
@[simp] theorem memWrite_mem (a : Nat) (x : Byte) : (s.memWrite a x).mem = Memory.write s.cfg.font s.mem (a % Config.memSize) x := rfl
@[simp] theorem memWrite_disp (a : Nat) (x : Byte) : (s.memWrite a x).disp = s.disp := rfl
@[simp] theorem memWrite_keys (a : Nat) (x : Byte) : (s.memWrite a x).keys = s.keys := rfl
@[simp] theorem memWrite_running (a : Nat) (x : Byte) : (s.memWrite a x).running = s.running := rfl
@[simp] theorem memWrite_paused (a : Nat) (x : Byte) : (s.memWrite a x).paused = s.paused := rfl
@[simp] theorem memWrite_needsRedraw (a : Nat) (x : Byte) : (s.memWrite a x).needsRedraw = s.needsRedraw := rfl
@[simp] theorem memWrite_waiting (a : Nat) (x : Byte) : (s.memWrite a x).waiting = s.waiting := rfl
@[simp] theorem memWrite_waitReg (a : Nat) (x : Byte) : (s.memWrite a x).waitReg = s.waitReg := rfl
@[simp] theorem memWrite_fault (a : Nat) (x : Byte) : (s.memWrite a x).fault = s.fault := rfl
@[simp] theorem memWrite_cpuAcc (a : Nat) (x : Byte) : (s.memWrite a x).cpuAcc = s.cpuAcc := rfl
@[simp] theorem memWrite_timerAcc (a : Nat) (x : Byte) : (s.memWrite a x).timerAcc = s.timerAcc := rfl
@[simp] theorem memWrite_cfg (a : Nat) (x : Byte) : (s.memWrite a x).cfg = s.cfg := rfl
@[simp] theorem memWrite_agenda (a : Nat) (x : Byte) : (s.memWrite a x).agenda = s.agenda := rfl
@[simp] theorem memWrite_draws (a : Nat) (x : Byte) : (s.memWrite a x).draws = s.draws := rfl

@[simp] theorem raiseFatal_v (k : FatalKind) (w : Word) : (s.raiseFatal k w).v = s.v := rfl
@[simp] theorem raiseFatal_pc (k : FatalKind) (w : Word) : (s.raiseFatal k w).pc = s.pc := rfl
@[simp] theorem raiseFatal_i (k : FatalKind) (w : Word) : (s.raiseFatal k w).i = s.i := rfl
@[simp] theorem raiseFatal_dt (k : FatalKind) (w : Word) : (s.raiseFatal k w).dt = s.dt := rfl
@[simp] theorem raiseFatal_st (k : FatalKind) (w : Word) : (s.raiseFatal k w).st = s.st := rfl
@[simp] theorem raiseFatal_stack (k : FatalKind) (w : Word) : (s.raiseFatal k w).stack = s.stack := rfl
@[simp] theorem raiseFatal_sp (k : FatalKind) (w : Word) : (s.raiseFatal k w).sp = s.sp := rfl
@[simp] theorem raiseFatal_mem (k : FatalKind) (w : Word) : (s.raiseFatal k w).mem = s.mem := rfl
@[simp] theorem raiseFatal_disp (k : FatalKind) (w : Word) : (s.raiseFatal k w).disp = s.disp := rfl
@[simp] theorem raiseFatal_keys (k : FatalKind) (w : Word) : (s.raiseFatal k w).keys = s.keys := rfl
@[simp] theorem raiseFatal_running (k : FatalKind) (w : Word) : (s.raiseFatal k w).running = false := rfl
@[simp] theorem raiseFatal_paused (k : FatalKind) (w : Word) : (s.raiseFatal k w).paused = s.paused := rfl
@[simp] theorem raiseFatal_needsRedraw (k : FatalKind) (w : Word) : (s.raiseFatal k w).needsRedraw = s.needsRedraw := rfl
@[simp] theorem raiseFatal_waiting (k : FatalKind) (w : Word) : (s.raiseFatal k w).waiting = s.waiting := rfl
@[simp] theorem raiseFatal_waitReg (k : FatalKind) (w : Word) : (s.raiseFatal k w).waitReg = s.waitReg := rfl
@[simp] theorem raiseFatal_fault (k : FatalKind) (w : Word) : (s.raiseFatal k w).fault = some ⟨k, w, BitVec.ofNat 16 ((s.pc.toNat + 65536 - 2) % 65536)⟩ := rfl
@[simp] theorem raiseFatal_cpuAcc (k : FatalKind) (w : Word) : (s.raiseFatal k w).cpuAcc = s.cpuAcc := rfl
@[simp] theorem raiseFatal_timerAcc (k : FatalKind) (w : Word) : (s.raiseFatal k w).timerAcc = s.timerAcc := rfl
@[simp] theorem raiseFatal_cfg (k : FatalKind) (w : Word) : (s.raiseFatal k w).cfg = s.cfg := rfl
@[simp] theorem raiseFatal_agenda (k : FatalKind) (w : Word) : (s.raiseFatal k w).agenda = s.agenda := rfl
@[simp] theorem raiseFatal_draws (k : FatalKind) (w : Word) : (s.raiseFatal k w).draws = s.draws := rfl

@[simp] theorem advancePc_v (n : Nat) : (s.advancePc n).v = s.v := rfl
@[simp] theorem advancePc_pc (n : Nat) : (s.advancePc n).pc = BitVec.ofNat 16 ((s.pc.toNat + n) % 65536) := rfl
@[simp] theorem advancePc_i (n : Nat) : (s.advancePc n).i = s.i := rfl
@[simp] theorem advancePc_dt (n : Nat) : (s.advancePc n).dt = s.dt := rfl
@[simp] theorem advancePc_st (n : Nat) : (s.advancePc n).st = s.st := rfl
@[simp] theorem advancePc_stack (n : Nat) : (s.advancePc n).stack = s.stack := rfl
@[simp] theorem advancePc_sp (n : Nat) : (s.advancePc n).sp = s.sp := rfl
@[simp] theorem advancePc_mem (n : Nat) : (s.advancePc n).mem = s.mem := rfl
@[simp] theorem advancePc_disp (n : Nat) : (s.advancePc n).disp = s.disp := rfl
@[simp] theorem advancePc_keys (n : Nat) : (s.advancePc n).keys = s.keys := rfl
@[simp] theorem advancePc_running (n : Nat) : (s.advancePc n).running = s.running := rfl
@[simp] theorem advancePc_paused (n : Nat) : (s.advancePc n).paused = s.paused := rfl
@[simp] theorem advancePc_needsRedraw (n : Nat) : (s.advancePc n).needsRedraw = s.needsRedraw := rfl
@[simp] theorem advancePc_waiting (n : Nat) : (s.advancePc n).waiting = s.waiting := rfl
@[simp] theorem advancePc_waitReg (n : Nat) : (s.advancePc n).waitReg = s.waitReg := rfl
@[simp] theorem advancePc_fault (n : Nat) : (s.advancePc n).fault = s.fault := rfl
@[simp] theorem advancePc_cpuAcc (n : Nat) : (s.advancePc n).cpuAcc = s.cpuAcc := rfl
@[simp] theorem advancePc_timerAcc (n : Nat) : (s.advancePc n).timerAcc = s.timerAcc := rfl
@[simp] theorem advancePc_cfg (n : Nat) : (s.advancePc n).cfg = s.cfg := rfl
@[simp] theorem advancePc_agenda (n : Nat) : (s.advancePc n).agenda = s.agenda := rfl
@[simp] theorem advancePc_draws (n : Nat) : (s.advancePc n).draws = s.draws := rfl

end State

end Sys2Proof.Machine
end

