-- ==== Sys2Proof/Laws/Memory.lean ====
section
/-!
SUPPORT. What the memory operations do: read after write, the canonical form, and that a canonical memory
is determined by its bytes.
-/

namespace Sys2Proof.Machine

theorem Memory.read_below {font : Font} {m : Memory} {lo a : Nat}
    (hm : Memory.wfFrom font lo m = true) (ha : a < lo) :
    Memory.read font m a = Memory.resetByte font a := by
  induction m generalizing lo with
  | nil => rfl
  | cons c rest ih =>
    obtain ⟨b, w⟩ := c
    simp only [Memory.wfFrom, Bool.and_eq_true, decide_eq_true_eq] at hm
    obtain ⟨⟨⟨hlo, _⟩, _⟩, hrest⟩ := hm
    have hne : a ≠ b := by omega
    simp only [Memory.read, hne, if_false]
    exact ih hrest (by omega)

theorem Memory.read_write_same_from {font : Font} {m : Memory} {lo a : Nat} (x : Byte)
    (hm : Memory.wfFrom font lo m = true) : Memory.read font (Memory.write font m a x) a = x := by
  induction m generalizing lo with
  | nil =>
    by_cases hx : x = Memory.resetByte font a
    · simp [Memory.write, Memory.read, hx]
    · simp [Memory.write, Memory.read, hx]
  | cons c rest ih =>
    obtain ⟨b, w⟩ := c
    have hm' := hm
    simp only [Memory.wfFrom, Bool.and_eq_true, decide_eq_true_eq] at hm
    obtain ⟨⟨⟨hlo, _⟩, _⟩, hrest⟩ := hm
    by_cases hlt : a < b
    · by_cases hx : x = Memory.resetByte font a
      · have hne : a ≠ b := by omega
        simp only [Memory.write, hlt, hx, if_true, Memory.read, hne, if_false]
        exact Memory.read_below hrest (by omega)
      · simp [Memory.write, Memory.read, hlt, hx]
    · by_cases heq : a = b
      · subst heq
        by_cases hx : x = Memory.resetByte font a
        · simp only [Memory.write, Nat.lt_irrefl, hx, if_true, if_false]
          exact Memory.read_below hrest (by omega)
        · simp [Memory.write, Memory.read, hx]
      · simp only [Memory.write, hlt, heq, if_false, Memory.read]
        exact ih hrest

theorem Memory.read_write_same {font : Font} {m : Memory} (a : Nat) (x : Byte)
    (hm : Memory.wf font m = true) : Memory.read font (Memory.write font m a x) a = x :=
  Memory.read_write_same_from x hm

theorem Memory.read_write_other (font : Font) (m : Memory) {a b : Nat} (x : Byte) (h : b ≠ a) :
    Memory.read font (Memory.write font m a x) b = Memory.read font m b := by
  induction m with
  | nil =>
    by_cases hx : x = Memory.resetByte font a
    · simp [Memory.write, hx]
    · simp [Memory.write, hx, Memory.read, h]
  | cons c rest ih =>
    obtain ⟨k, w⟩ := c
    by_cases hlt : a < k
    · by_cases hx : x = Memory.resetByte font a
      · simp [Memory.write, hlt, hx]
      · simp [Memory.write, hlt, hx, Memory.read, h]
    · by_cases heq : a = k
      · subst heq
        by_cases hx : x = Memory.resetByte font a
        · simp [Memory.write, hx, Memory.read, h]
        · simp [Memory.write, hx, Memory.read, h]
      · simp only [Memory.write, hlt, heq, if_false, Memory.read, ih]

/-- A memory canonical above a bound is canonical above a lower one. -/
theorem Memory.wfFrom_mono {font : Font} {m : Memory} {lo lo' : Nat}
    (hm : Memory.wfFrom font lo m = true) (h : lo' ≤ lo) : Memory.wfFrom font lo' m = true := by
  cases m with
  | nil => rfl
  | cons c rest =>
    obtain ⟨b, w⟩ := c
    simp only [Memory.wfFrom, Bool.and_eq_true, decide_eq_true_eq] at hm ⊢
    exact ⟨⟨⟨by omega, hm.1.1.2⟩, hm.1.2⟩, hm.2⟩

theorem Memory.write_wfFrom {font : Font} {m : Memory} {lo a : Nat} (x : Byte)
    (hm : Memory.wfFrom font lo m = true) (hlo : lo ≤ a) (ha : a < Config.memSize) :
    Memory.wfFrom font lo (Memory.write font m a x) = true := by
  induction m generalizing lo with
  | nil =>
    by_cases hx : x = Memory.resetByte font a
    · simp [Memory.write, hx, Memory.wfFrom]
    · simp [Memory.write, hx, Memory.wfFrom, hlo, ha]
  | cons c rest ih =>
    obtain ⟨b, w⟩ := c
    have hm' := hm
    simp only [Memory.wfFrom, Bool.and_eq_true, decide_eq_true_eq] at hm
    obtain ⟨⟨⟨hlob, hb⟩, hw⟩, hrest⟩ := hm
    by_cases hlt : a < b
    · by_cases hx : x = Memory.resetByte font a
      · simp only [Memory.write, hlt, hx, if_true]
        exact hm'
      · simp only [Memory.write, hlt, hx, if_true, if_false, Memory.wfFrom, Bool.and_eq_true,
          decide_eq_true_eq]
        exact ⟨⟨⟨hlo, ha⟩, hx⟩, ⟨⟨⟨hlt, hb⟩, hw⟩, hrest⟩⟩
    · by_cases heq : a = b
      · subst heq
        by_cases hx : x = Memory.resetByte font a
        · simp only [Memory.write, Nat.lt_irrefl, hx, if_true, if_false]
          exact Memory.wfFrom_mono hrest (by omega)
        · simp only [Memory.write, Nat.lt_irrefl, hx, if_true, if_false, Memory.wfFrom,
            Bool.and_eq_true, decide_eq_true_eq]
          exact ⟨⟨⟨hlo, ha⟩, hx⟩, hrest⟩
      · simp only [Memory.write, hlt, heq, if_false, Memory.wfFrom, Bool.and_eq_true,
          decide_eq_true_eq]
        exact ⟨⟨⟨hlob, hb⟩, hw⟩, ih hrest (by omega)⟩

theorem Memory.write_wf {font : Font} {m : Memory} {a : Nat} (x : Byte)
    (hm : Memory.wf font m = true) (ha : a < Config.memSize) :
    Memory.wf font (Memory.write font m a x) = true :=
  Memory.write_wfFrom x hm (Nat.zero_le a) ha

/-- Two canonical memories that read alike everywhere are the same list. -/
theorem Memory.ext_of_read {font : Font} {m m' : Memory} {lo : Nat}
    (hm : Memory.wfFrom font lo m = true) (hm' : Memory.wfFrom font lo m' = true)
    (h : ∀ a, Memory.read font m a = Memory.read font m' a) : m = m' := by
  induction m generalizing m' lo with
  | nil =>
    cases m' with
    | nil => rfl
    | cons c rest =>
      obtain ⟨b, w⟩ := c
      have hb := h b
      simp only [Memory.wfFrom, Bool.and_eq_true, decide_eq_true_eq] at hm'
      simp only [Memory.read, if_true] at hb
      exact absurd hb.symm hm'.1.2
  | cons c rest ih =>
    obtain ⟨b, w⟩ := c
    have hc := hm
    simp only [Memory.wfFrom, Bool.and_eq_true, decide_eq_true_eq] at hc
    cases m' with
    | nil =>
      have hb := h b
      simp only [Memory.read, if_true] at hb
      exact absurd hb hc.1.2
    | cons c' rest' =>
      obtain ⟨b', w'⟩ := c'
      have hc' := hm'
      simp only [Memory.wfFrom, Bool.and_eq_true, decide_eq_true_eq] at hc'
      have hbb : b = b' := by
        by_contra hne
        rcases Nat.lt_or_gt_of_ne hne with hlt | hgt
        · have hb := h b
          simp only [Memory.read, if_true, hne, if_false] at hb
          rw [Memory.read_below hc'.2 (by omega)] at hb
          exact hc.1.2 hb
        · have hb := h b'
          have hne' : b' ≠ b := fun e => hne e.symm
          simp only [Memory.read, if_true, hne', if_false] at hb
          rw [Memory.read_below hc.2 (by omega)] at hb
          exact hc'.1.2 hb.symm
      subst hbb
      have hw : w = w' := by simpa [Memory.read] using h b
      subst hw
      rw [ih hc.2 hc'.2]
      intro a
      by_cases hab : a = b
      · subst hab
        rw [Memory.read_below hc.2 (by omega), Memory.read_below hc'.2 (by omega)]
      · simpa [Memory.read, hab] using h a

/-! ### At the level of the state -/

/-- Reading after a write: the written byte at the same masked address, the old byte elsewhere (R61, R68). -/
theorem State.memRead_memWrite {s : State} (hs : Memory.wf s.cfg.font s.mem = true) (a b : Nat)
    (x : Byte) : (s.memWrite a x).memRead b =
      if b % Config.memSize = a % Config.memSize then x else s.memRead b := by
  by_cases h : b % Config.memSize = a % Config.memSize
  · simp only [State.memRead, State.memWrite, h, if_true]
    exact Memory.read_write_same _ x hs
  · simp only [State.memRead, State.memWrite, h, if_false]
    exact Memory.read_write_other _ _ x h

/-- A write leaves every byte at another masked address alone, in any state. -/
theorem State.memRead_memWrite_other (s : State) {a b : Nat} (x : Byte)
    (h : b % Config.memSize ≠ a % Config.memSize) : (s.memWrite a x).memRead b = s.memRead b :=
  Memory.read_write_other _ _ x h

/-- A write keeps the canonical form. -/
theorem State.memWrite_wf {s : State} (hs : Memory.wf s.cfg.font s.mem = true) (a : Nat) (x : Byte) :
    Memory.wf (s.memWrite a x).cfg.font (s.memWrite a x).mem = true :=
  Memory.write_wf x hs (Nat.mod_lt _ (by decide))

/-- Only the address modulo 4096 matters to a read (R61, R68). -/
theorem State.memRead_mod (s : State) (a : Nat) : s.memRead (a % Config.memSize) = s.memRead a := by
  simp [State.memRead]

theorem State.reset_memory_wf : Memory.wf State.reset.cfg.font State.reset.mem = true := rfl

end Sys2Proof.Machine
end

