-- ==== Sys2Proof/Laws/Ops.lean ====
section
/-!
SUPPORT. What each shared operation over registers, memory blocks, stack and keyboard does, said once.
-/

namespace Sys2Proof.Machine

namespace State

section Reads

variable (s : State)

@[simp] theorem setPc_readV (r : RegIdx) (a : Word) : (s.setPc a).readV r = s.readV r := rfl
@[simp] theorem setPc_memRead (m : Nat) (a : Word) : (s.setPc a).memRead m = s.memRead m := rfl
@[simp] theorem setI_readV (r : RegIdx) (a : Word) : (s.setI a).readV r = s.readV r := rfl
@[simp] theorem setI_memRead (m : Nat) (a : Word) : (s.setI a).memRead m = s.memRead m := rfl
@[simp] theorem setDt_readV (r : RegIdx) (b : Byte) : (s.setDt b).readV r = s.readV r := rfl
@[simp] theorem setDt_memRead (m : Nat) (b : Byte) : (s.setDt b).memRead m = s.memRead m := rfl
@[simp] theorem setSt_readV (r : RegIdx) (b : Byte) : (s.setSt b).readV r = s.readV r := rfl
@[simp] theorem setSt_memRead (m : Nat) (b : Byte) : (s.setSt b).memRead m = s.memRead m := rfl
@[simp] theorem setDisp_readV (r : RegIdx) (d : Display) : (s.setDisp d).readV r = s.readV r := rfl
@[simp] theorem setDisp_memRead (m : Nat) (d : Display) : (s.setDisp d).memRead m = s.memRead m := rfl
@[simp] theorem setNeedsRedraw_readV (r : RegIdx) (b : Bool) : (s.setNeedsRedraw b).readV r = s.readV r := rfl
@[simp] theorem setNeedsRedraw_memRead (m : Nat) (b : Bool) : (s.setNeedsRedraw b).memRead m = s.memRead m := rfl
@[simp] theorem setRunning_readV (r : RegIdx) (b : Bool) : (s.setRunning b).readV r = s.readV r := rfl
@[simp] theorem setRunning_memRead (m : Nat) (b : Bool) : (s.setRunning b).memRead m = s.memRead m := rfl
@[simp] theorem setPaused_readV (r : RegIdx) (b : Bool) : (s.setPaused b).readV r = s.readV r := rfl
@[simp] theorem setPaused_memRead (m : Nat) (b : Bool) : (s.setPaused b).memRead m = s.memRead m := rfl
@[simp] theorem startWait_readV (r : RegIdx) (x : RegIdx) : (s.startWait x).readV r = s.readV r := rfl
@[simp] theorem startWait_memRead (m : Nat) (x : RegIdx) : (s.startWait x).memRead m = s.memRead m := rfl
@[simp] theorem endWait_readV (r : RegIdx) : (s.endWait).readV r = s.readV r := rfl
@[simp] theorem endWait_memRead (m : Nat) : (s.endWait).memRead m = s.memRead m := rfl
@[simp] theorem setAccumulators_readV (r : RegIdx) (c d : Nat) : (s.setAccumulators c d).readV r = s.readV r := rfl
@[simp] theorem setAccumulators_memRead (m : Nat) (c d : Nat) : (s.setAccumulators c d).memRead m = s.memRead m := rfl
@[simp] theorem setAgenda_readV (r : RegIdx) (l : List Input) : (s.setAgenda l).readV r = s.readV r := rfl
@[simp] theorem setAgenda_memRead (m : Nat) (l : List Input) : (s.setAgenda l).memRead m = s.memRead m := rfl
@[simp] theorem countDraw_readV (r : RegIdx) : (s.countDraw).readV r = s.readV r := rfl
@[simp] theorem countDraw_memRead (m : Nat) : (s.countDraw).memRead m = s.memRead m := rfl
@[simp] theorem raiseFatal_readV (r : RegIdx) (k : FatalKind) (w : Word) : (s.raiseFatal k w).readV r = s.readV r := rfl
@[simp] theorem raiseFatal_memRead (m : Nat) (k : FatalKind) (w : Word) : (s.raiseFatal k w).memRead m = s.memRead m := rfl
@[simp] theorem advancePc_readV (r : RegIdx) (n : Nat) : (s.advancePc n).readV r = s.readV r := rfl
@[simp] theorem advancePc_memRead (m : Nat) (n : Nat) : (s.advancePc n).memRead m = s.memRead m := rfl
@[simp] theorem writeV_memRead (m : Nat) (r : RegIdx) (b : Byte) : (s.writeV r b).memRead m = s.memRead m := rfl
@[simp] theorem memWrite_readV (r : RegIdx) (a : Nat) (x : Byte) : (s.memWrite a x).readV r = s.readV r := rfl

end Reads

/-! ### Registers -/

/-- A register reads what was last written to it, and a write leaves every other register alone. -/
@[simp] theorem readV_writeV (s : State) (r q : RegIdx) (b : Byte) :
    (s.writeV r b).readV q = if q = r then b else s.readV q := by
  unfold readV writeV
  by_cases h : q = r
  · subst h
    simp
  · have hn : r.toNat ≠ q.toNat := fun e => h (BitVec.eq_of_toNat_eq e.symm)
    simp [h, Vector.getElem_set_ne _ _ hn]

/-- The flag is written last: VF reads the flag whatever x is (R24, R168). -/
@[simp] theorem readV_writeResultAndFlag (s : State) (x q : RegIdx) (result flag : Byte) :
    (s.writeResultAndFlag x result flag).readV q =
      if q = flagReg then flag else if q = x then result else s.readV q := by
  simp [writeResultAndFlag]

/-- The two writes touch the register file only. -/
theorem writeResultAndFlag_frame (s : State) (x : RegIdx) (result flag : Byte) :
    s.writeResultAndFlag x result flag = { s with v := (s.writeResultAndFlag x result flag).v } := rfl

@[simp] theorem writeResultAndFlag_memRead (s : State) (x : RegIdx) (result flag : Byte) (k : Nat) :
    (s.writeResultAndFlag x result flag).memRead k = s.memRead k := rfl

/-! ### Blocks of registers (R194, R195) -/

/-- Storing a block of registers changes memory only. -/
theorem storeRegs_frame (base n : Nat) (s : State) :
    storeRegs base n s = { s with mem := (storeRegs base n s).mem } := by
  induction n with
  | zero => rfl
  | succ n ih =>
    simp only [storeRegs]
    rw [ih]
    rfl

theorem storeRegs_readV (base n : Nat) (s : State) (r : RegIdx) :
    (storeRegs base n s).readV r = s.readV r := by
  rw [storeRegs_frame]
  rfl

theorem storeRegs_cfg (base n : Nat) (s : State) : (storeRegs base n s).cfg = s.cfg := by
  rw [storeRegs_frame]

/-- Storing a block keeps memory's canonical form. -/
theorem storeRegs_wf (base n : Nat) {s : State} (hs : Memory.wf s.cfg.font s.mem = true) :
    Memory.wf (storeRegs base n s).cfg.font (storeRegs base n s).mem = true := by
  induction n with
  | zero => exact hs
  | succ n ih => exact memWrite_wf ih _ _

/-- A byte outside the stored block reads as before. -/
theorem storeRegs_memRead_other (base n : Nat) (s : State) (b : Nat)
    (h : ∀ k, k < n → b % Config.memSize ≠ (base + k) % Config.memSize) :
    (storeRegs base n s).memRead b = s.memRead b := by
  induction n with
  | zero => rfl
  | succ n ih =>
    simp only [storeRegs]
    rw [memRead_memWrite_other _ _ (h n (by omega)), ih (fun k hk => h k (by omega))]

/-- The k-th byte of the stored block is `V[k]`. -/
theorem storeRegs_memRead_same (base n : Nat) {s : State} (hs : Memory.wf s.cfg.font s.mem = true)
    (hn : n ≤ 16) {k : Nat} (hk : k < n) :
    (storeRegs base n s).memRead (base + k) = s.readV (BitVec.ofNat 4 k) := by
  induction n with
  | zero => omega
  | succ n ih =>
    simp only [storeRegs]
    rw [memRead_memWrite (storeRegs_wf base n hs)]
    by_cases h : k = n
    · subst h
      simp [storeRegs_readV]
    · have hne : (base + k) % Config.memSize ≠ (base + n) % Config.memSize := by
        simp only [Config.memSize]
        omega
      simp only [hne, if_false]
      exact ih (by omega) (by omega)

/-- Loading a block of registers changes the register file only. -/
theorem loadRegs_frame (base n : Nat) (s : State) :
    loadRegs base n s = { s with v := (loadRegs base n s).v } := by
  induction n with
  | zero => rfl
  | succ n ih =>
    simp only [loadRegs]
    rw [ih]
    rfl

theorem loadRegs_memRead (base n : Nat) (s : State) (b : Nat) :
    (loadRegs base n s).memRead b = s.memRead b := by
  rw [loadRegs_frame]
  rfl

/-- The k-th register of the loaded block holds the k-th byte; the others keep their value. -/
theorem loadRegs_readV (base n : Nat) (s : State) (hn : n ≤ 16) (r : RegIdx) :
    (loadRegs base n s).readV r =
      if r.toNat < n then s.memRead (base + r.toNat) else s.readV r := by
  induction n with
  | zero => simp [loadRegs]
  | succ n ih =>
    simp only [loadRegs, readV_writeV, loadRegs_memRead]
    by_cases h : r = BitVec.ofNat 4 n
    · subst h
      have hm : n % 16 = n := Nat.mod_eq_of_lt (by omega)
      simp [hm]
    · have hne : r.toNat ≠ n := by
        intro e
        apply h
        apply BitVec.eq_of_toNat_eq
        rw [BitVec.toNat_ofNat, e]
        exact (Nat.mod_eq_of_lt (by omega)).symm
      simp only [h, if_false, ih (by omega)]
      have : (r.toNat < n + 1) ↔ (r.toNat < n) := by omega
      simp [this]

/-! ### The stack (R12) -/

/-- A push answers exactly when fewer than 64 entries are held, and then writes S[SP] and SP. -/
theorem push_eq_some {s t : State} {a : Word} (h : s.push a = some t) :
    ∃ hlt : s.sp.val < 64,
      t = { s with stack := s.stack.set s.sp.val a, sp := ⟨s.sp.val + 1, by omega⟩ } := by
  unfold push at h
  by_cases hlt : s.sp.val < 64
  · rw [dif_pos hlt] at h
    exact ⟨hlt, (Option.some.inj h).symm⟩
  · rw [dif_neg hlt] at h
    cases h

theorem push_eq_none {s : State} {a : Word} : s.push a = none ↔ s.sp.val = 64 := by
  have := s.sp.isLt
  unfold push
  by_cases hlt : s.sp.val < 64
  · rw [dif_pos hlt]
    constructor
    · intro h
      cases h
    · omega
  · rw [dif_neg hlt]
    constructor
    · omega
    · simp

/-- A pop answers exactly when an entry is held, and then gives the top and lowers SP; no entry is erased. -/
theorem pop_eq_some {s t : State} {a : Word} (h : s.pop = some (a, t)) :
    ∃ hpos : 0 < s.sp.val, a = s.stack[s.sp.val - 1]'(by omega) ∧
      t = { s with sp := ⟨s.sp.val - 1, by omega⟩ } := by
  unfold pop at h
  by_cases hpos : 0 < s.sp.val
  · rw [dif_pos hpos] at h
    injection h with h
    injection h with h1 h2
    exact ⟨hpos, h1.symm, h2.symm⟩
  · rw [dif_neg hpos] at h
    cases h

theorem pop_eq_none {s : State} : s.pop = none ↔ s.sp.val = 0 := by
  unfold pop
  by_cases hpos : 0 < s.sp.val
  · rw [dif_pos hpos]
    constructor
    · intro h
      cases h
    · omega
  · rw [dif_neg hpos]
    constructor
    · omega
    · simp

/-! ### Skips (R148) and the keyboard (R33) -/

/-- A skip changes the pc only: 2 more, modulo 65536, when the condition holds. -/
theorem skipIf_eq (s : State) (c : Bool) :
    s.skipIf c = s.setPc (if c then BitVec.ofNat 16 ((s.pc.toNat + 2) % 65536) else s.pc) := by
  cases c <;> rfl

/-- A key above 15 reads as not pressed (R13). -/
theorem keyPressed_above (s : State) (k : Byte) (h : 15 < k.toNat) : s.keyPressed k = false := by
  have : ¬ k.toNat < 16 := by omega
  simp [keyPressed, this]

/-- A key report changes that key's bit and no other; above 15 it changes nothing (R33). -/
theorem keyPressed_setKey (s : State) (k q : Byte) (b : Bool) :
    (s.setKey k b).keyPressed q = if q = k ∧ k.toNat < 16 then b else s.keyPressed q := by
  unfold setKey keyPressed
  by_cases hk : k.toNat < 16
  · rw [dif_pos hk]
    by_cases hq : q.toNat < 16
    · rw [dif_pos hq]
      by_cases e : q = k
      · subst e
        simp [hk]
      · have hn : k.toNat ≠ q.toNat := fun h => e (BitVec.eq_of_toNat_eq h.symm)
        simp [hq, e, Vector.getElem_set_ne _ _ hn]
    · have e : q ≠ k := fun h => hq (h ▸ hk)
      simp [hq, e]
  · rw [dif_neg hk]
    simp [hk]

/-- A key report changes the key bits only. -/
theorem setKey_frame (s : State) (k : Byte) (b : Bool) :
    s.setKey k b = { s with keys := (s.setKey k b).keys } := by
  unfold setKey
  split <;> rfl

end State

end Sys2Proof.Machine
end

