-- ==== Sys2Proof/Laws/Cycle.lean ====
section
/-!
SUPPORT. Everything a CPU step, a step of the machine, and the loading of a ROM can do, said once.
-/

namespace Sys2Proof.Machine

/-- A CPU step that is gated does nothing (R121). -/
theorem cpuStep_idle {s : State} (h : s.cpuActive = false) : cpuStep s = .next s := by
  unfold cpuStep
  rw [h]
  rfl

/-- A CPU step on a recognized word is the instruction's meaning after fetch (R120, R125). -/
theorem cpuStep_ok {s : State} {i : Instr} (h : s.cpuActive = true) (hd : decodeWord s.fetchWord = .ok i) :
    cpuStep s = exec i s.afterFetch := by
  have hd' : decode s.fetchBytes = .ok (i, []) := decode_pair_ok.mpr hd
  unfold cpuStep
  rw [h, hd']
  rfl

/-- A CPU step on an unrecognized word is fatal (R241). -/
theorem cpuStep_error {s : State} {e : DecodeError} (h : s.cpuActive = true)
    (hd : decodeWord s.fetchWord = .error e) :
    cpuStep s = .next (s.afterFetch.raiseFatal .unrecognizedOpcode s.fetchWord) := by
  have hd' : decode s.fetchBytes = .error e := by
    unfold State.fetchBytes
    rw [decode_pair]
    unfold State.fetchWord at hd
    rw [hd]
  unfold cpuStep
  rw [h, hd']
  rfl

/-- The three things a CPU step can do. -/
theorem cpuStep_cases {s t : State} (h : cpuStep s = .next t) :
    (s.cpuActive = false ∧ t = s) ∨
    (s.cpuActive = true ∧ ∃ i, decodeWord s.fetchWord = .ok i ∧ exec i s.afterFetch = .next t) ∨
    (s.cpuActive = true ∧ decodeWord s.fetchWord = .error (.unrecognizedOpcode s.fetchWord) ∧
      t = s.afterFetch.raiseFatal .unrecognizedOpcode s.fetchWord) := by
  cases ha : s.cpuActive with
  | false =>
    rw [cpuStep_idle ha] at h
    injection h with h
    exact .inl ⟨rfl, h.symm⟩
  | true =>
    cases hd : decodeWord s.fetchWord with
    | ok i => exact .inr (.inl ⟨rfl, i, rfl, (cpuStep_ok ha hd) ▸ h⟩)
    | error e =>
      rw [cpuStep_error ha hd] at h
      injection h with h
      exact .inr (.inr ⟨rfl, congrArg Except.error (decodeWord_error hd), h.symm⟩)

/-- The three things a step can do: a CpuStep when no input is listed, a listed event, or an iteration of the
scheduler (log 5). -/
theorem step_cases {s t : State} (h : step s = .next t) :
    (s.agenda = [] ∧ cpuStep s = .next t) ∨
    (∃ e rest, s.agenda = .event e :: rest ∧ applyEvent e (s.setAgenda rest) = .next t) ∨
    (∃ dt rest, s.agenda = .iterate dt :: rest ∧ t = schedulerIteration dt (s.setAgenda rest)) := by
  unfold step takeInput at h
  cases ha : s.agenda with
  | nil =>
    rw [ha] at h
    exact .inl ⟨rfl, h⟩
  | cons inp rest =>
    rw [ha] at h
    cases inp with
    | event e => exact .inr (.inl ⟨e, rest, rfl, h⟩)
    | iterate dt =>
      injection h with h
      exact .inr (.inr ⟨dt, rest, rfl, h.symm⟩)

/-- The `j`-th entry of the font region of the reset content is the font's byte (R44). -/
theorem Memory.resetByte_font (font : Font) {d j : Nat} (hd : d < 16) (hj : j < 5) :
    Memory.resetByte font (Config.fontStart + Config.glyphBytes * d + j) = (font[d]'hd)[j]'hj := by
  unfold Memory.resetByte
  have h : Config.fontStart ≤ Config.fontStart + Config.glyphBytes * d + j ∧
      Config.fontStart + Config.glyphBytes * d + j < Config.fontEnd := by
    simp only [Config.fontStart, Config.fontEnd, Config.glyphBytes]
    omega
  rw [dif_pos h]
  have h1 : (Config.fontStart + Config.glyphBytes * d + j - Config.fontStart) / Config.glyphBytes = d := by
    simp only [Config.fontStart, Config.glyphBytes]
    omega
  have h2 : (Config.fontStart + Config.glyphBytes * d + j - Config.fontStart) % Config.glyphBytes = j := by
    simp only [Config.fontStart, Config.glyphBytes]
    omega
  simp [h1, h2]

/-- Writing a list of bytes changes memory only. -/
theorem State.writeBytes_frame (l : List Byte) (s : State) (a : Nat) :
    s.writeBytes a l = { s with mem := (s.writeBytes a l).mem } := by
  induction l generalizing s a with
  | nil => rfl
  | cons x rest ih =>
    simp only [State.writeBytes]
    rw [ih]
    rfl

/-- Writing a list of bytes keeps memory's canonical form. -/
theorem State.writeBytes_wf (l : List Byte) {s : State} (a : Nat)
    (hs : Memory.wf s.cfg.font s.mem = true) :
    Memory.wf s.cfg.font (s.writeBytes a l).mem = true := by
  induction l generalizing s a with
  | nil => exact hs
  | cons x rest ih => exact ih (s := s.memWrite a x) (a + 1) (State.memWrite_wf hs a x)

/-- A byte outside the written block reads as before. -/
theorem State.writeBytes_memRead_other (l : List Byte) (s : State) (a b : Nat)
    (ha : a + l.length ≤ Config.memSize) (hb : b < Config.memSize) (h : b < a ∨ a + l.length ≤ b) :
    (s.writeBytes a l).memRead b = s.memRead b := by
  induction l generalizing s a with
  | nil => rfl
  | cons x rest ih =>
    simp only [List.length_cons, Config.memSize] at ha h hb
    simp only [State.writeBytes]
    rw [ih _ _ (by simp only [Config.memSize]; omega) (by omega), State.memRead_memWrite_other]
    simp only [Config.memSize]
    omega

/-- The `j`-th byte of the written block reads back. -/
theorem State.writeBytes_memRead_same (l : List Byte) {s : State} (a : Nat)
    (hs : Memory.wf s.cfg.font s.mem = true) (ha : a + l.length ≤ Config.memSize) {j : Nat}
    (hj : j < l.length) : (s.writeBytes a l).memRead (a + j) = l[j] := by
  induction l generalizing s a j with
  | nil => simp at hj
  | cons x rest ih =>
    simp only [List.length_cons, Config.memSize] at ha hj
    simp only [State.writeBytes]
    cases j with
    | zero =>
      rw [Nat.add_zero, State.writeBytes_memRead_other _ _ _ _ (by simp only [Config.memSize]; omega)
        (by simp only [Config.memSize]; omega) (by omega), State.memRead_memWrite hs]
      simp
    | succ j =>
      have e : a + (j + 1) = a + 1 + j := by omega
      have := ih (s := s.memWrite a x) (a + 1) (State.memWrite_wf hs a x)
        (by simp only [Config.memSize]; omega) (j := j) (by omega)
      rw [e, this]
      simp

end Sys2Proof.Machine
end

