-- ==== Sys2Proof/Laws/Display.lean ====
section
/-!
SUPPORT. What drawing does, pixel by pixel (44_display.md R211, R212): the recursion over columns and
rows is equal to testing each pixel of the screen by itself.
-/

namespace Sys2Proof.Machine

/-- Outside the grid there is no pixel. -/
theorem Display.pixel_outside (d : Display) {row col : Nat} (h : ¬(row < 32 ∧ col < 64)) :
    d.pixel row col = false := by
  unfold Display.pixel
  rw [dif_neg h]

/-- Two displays with the same pixels are the same. -/
theorem Display.ext_of_pixel {d d' : Display}
    (h : ∀ row col, d.pixel row col = d'.pixel row col) : d = d' := by
  apply Vector.ext
  intro i hi
  apply Vector.ext
  intro j hj
  have := h i j
  unfold Display.pixel at this
  rwa [dif_pos ⟨hi, hj⟩, dif_pos ⟨hi, hj⟩] at this

/-- Every pixel of the cleared display is off (R210). -/
@[simp] theorem Display.pixel_clear (row col : Nat) : Display.clear.pixel row col = false := by
  unfold Display.pixel Display.clear
  split
  · simp
  · rfl

/-- A toggle flips the one pixel, if it is on the grid, and no other. -/
theorem Display.pixel_toggle (d : Display) (row col row' col' : Nat) :
    (d.toggle row col).pixel row' col' =
      if row' = row ∧ col' = col ∧ row < 32 ∧ col < 64 then !d.pixel row col
      else d.pixel row' col' := by
  unfold Display.toggle
  by_cases h : row < 32 ∧ col < 64
  · rw [dif_pos h]
    unfold Display.pixel
    by_cases h' : row' < 32 ∧ col' < 64
    · rw [dif_pos h', dif_pos h]
      by_cases hr : row' = row
      · subst hr
        by_cases hc : col' = col
        · subst hc
          simp [h]
        · have : col ≠ col' := fun e => hc e.symm
          simp [hc, h', Vector.getElem_set_ne _ _ this]
      · have : row ≠ row' := fun e => hr e.symm
        simp [hr, h', Vector.getElem_set_ne _ _ this]
    · rw [dif_neg h', dif_neg h']
      have : ¬(row' = row ∧ col' = col ∧ row < 32 ∧ col < 64) := by
        rintro ⟨rfl, rfl, h2⟩
        exact h' h2
      simp [this]
  · rw [dif_neg h]
    have : ¬(row' = row ∧ col' = col ∧ row < 32 ∧ col < 64) := fun e => h e.2.2
    simp [this]

/-- The pixels after the first `n` columns of a sprite row: a pixel of that row is flipped exactly when it
lies under a sprite bit that is 1; every other pixel is as before. -/
theorem drawCols_pixel (b : Byte) {row : Nat} (hrow : row < 32) (x0 n : Nat)
    (acc : Display × Bool) (r c : Nat) :
    (drawCols b row x0 n acc).1.pixel r c =
      if r = row ∧ c < 64 ∧ x0 ≤ c ∧ c < x0 + n ∧ spriteBit b (c - x0) = true then
        !acc.1.pixel r c
      else acc.1.pixel r c := by
  induction n with
  | zero =>
    have : ¬(r = row ∧ c < 64 ∧ x0 ≤ c ∧ c < x0 + 0 ∧ spriteBit b (c - x0) = true) := by omega
    simp only [drawCols, this, if_false]
  | succ n ih =>
    simp only [drawCols]
    by_cases hoff : x0 + n > 63
    · simp only [hoff, if_true]
      rw [ih]
      congr 1
      apply propext
      constructor
      · rintro ⟨h1, h2, h3, h4, h5⟩
        exact ⟨h1, h2, h3, by omega, h5⟩
      · rintro ⟨h1, h2, h3, h4, h5⟩
        exact ⟨h1, h2, h3, by omega, h5⟩
    · simp only [hoff, if_false]
      by_cases hbit : spriteBit b n = true
      · simp only [hbit, if_true]
        rw [Display.pixel_toggle, ih]
        by_cases hat : r = row ∧ c = x0 + n
        · obtain ⟨rfl, rfl⟩ := hat
          have h1 : x0 + n < 64 := by omega
          have h2 : x0 + n - x0 = n := by omega
          simp [ih, hrow, h1, h2, hbit]
        · have h1 : ¬(r = row ∧ c = x0 + n ∧ row < 32 ∧ x0 + n < 64) := fun e => hat ⟨e.1, e.2.1⟩
          simp only [h1, if_false]
          congr 1
          apply propext
          constructor
          · rintro ⟨a1, a2, a3, a4, a5⟩
            exact ⟨a1, a2, a3, by omega, a5⟩
          · rintro ⟨a1, a2, a3, a4, a5⟩
            have : c ≠ x0 + n := fun e => hat ⟨a1, e⟩
            exact ⟨a1, a2, a3, by omega, a5⟩
      · simp only [hbit, Bool.false_eq_true, if_false]
        rw [ih]
        congr 1
        apply propext
        constructor
        · rintro ⟨a1, a2, a3, a4, a5⟩
          exact ⟨a1, a2, a3, by omega, a5⟩
        · rintro ⟨a1, a2, a3, a4, a5⟩
          have : c ≠ x0 + n := by
            rintro rfl
            apply hbit
            have h2 : x0 + n - x0 = n := by omega
            rwa [h2] at a5
          exact ⟨a1, a2, a3, by omega, a5⟩

/-- The collision after the first `n` columns: it was set before, or an on pixel of the row lies under a
sprite bit that is 1. -/
theorem drawCols_hit (b : Byte) {row : Nat} (hrow : row < 32) (x0 n : Nat)
    (acc : Display × Bool) :
    (drawCols b row x0 n acc).2 = true ↔
      acc.2 = true ∨ ∃ k, k < n ∧ x0 + k < 64 ∧ spriteBit b k = true ∧
        acc.1.pixel row (x0 + k) = true := by
  induction n with
  | zero => simp [drawCols]
  | succ n ih =>
    simp only [drawCols]
    by_cases hoff : x0 + n > 63
    · simp only [hoff, if_true]
      rw [ih]
      constructor
      · rintro (h | ⟨k, h1, h2, h3⟩)
        · exact Or.inl h
        · exact Or.inr ⟨k, by omega, h2, h3⟩
      · rintro (h | ⟨k, h1, h2, h3⟩)
        · exact Or.inl h
        · exact Or.inr ⟨k, by omega, h2, h3⟩
    · simp only [hoff, if_false]
      have hpix : (drawCols b row x0 n acc).1.pixel row (x0 + n) = acc.1.pixel row (x0 + n) := by
        rw [drawCols_pixel b hrow, if_neg]
        rintro ⟨_, _, _, h, _⟩
        omega
      by_cases hbit : spriteBit b n = true
      · simp only [hbit, if_true, Bool.or_eq_true, hpix]
        rw [ih]
        constructor
        · rintro ((h | ⟨k, h1, h2⟩) | h)
          · exact Or.inl h
          · exact Or.inr ⟨k, by omega, h2⟩
          · exact Or.inr ⟨n, by omega, by omega, hbit, h⟩
        · rintro (h | ⟨k, h1, h2, h3, h4⟩)
          · exact Or.inl (Or.inl h)
          · by_cases e : k = n
            · subst e
              exact Or.inr h4
            · exact Or.inl (Or.inr ⟨k, by omega, h2, h3, h4⟩)
      · simp only [hbit]
        rw [if_neg (by simp), ih]
        constructor
        · rintro (h | ⟨k, h1, h2⟩)
          · exact Or.inl h
          · exact Or.inr ⟨k, by omega, h2⟩
        · rintro (h | ⟨k, h1, h2, h3, h4⟩)
          · exact Or.inl h
          · have : k ≠ n := by
              rintro rfl
              exact hbit h3
            exact Or.inr ⟨k, by omega, h2, h3, h4⟩

/-- The pixels after the first `n` rows of a sprite at `base`: a pixel of the screen is flipped exactly when
it lies under a sprite bit that is 1; every other pixel is as before (R211, R212). -/
theorem State.drawRows_pixel (s : State) (base x0 y0 n : Nat) (acc : Display × Bool) (r c : Nat) :
    (s.drawRows base x0 y0 n acc).1.pixel r c =
      if r < 32 ∧ c < 64 ∧ y0 ≤ r ∧ r < y0 + n ∧ x0 ≤ c ∧ c < x0 + 8 ∧
          spriteBit (s.memRead (base + (r - y0))) (c - x0) = true then
        !acc.1.pixel r c
      else acc.1.pixel r c := by
  induction n with
  | zero =>
    rw [if_neg]
    · rfl
    · rintro ⟨_, _, _, h, _⟩
      omega
  | succ n ih =>
    simp only [State.drawRows]
    by_cases hoff : y0 + n > 31
    · simp only [hoff, if_true]
      rw [ih]
      congr 1
      apply propext
      constructor
      · rintro ⟨h1, h2, h3, h4, h5⟩
        exact ⟨h1, h2, h3, by omega, h5⟩
      · rintro ⟨h1, h2, h3, h4, h5⟩
        exact ⟨h1, h2, h3, by omega, h5⟩
    · simp only [hoff, if_false]
      rw [drawCols_pixel _ (by omega)]
      by_cases hr : r = y0 + n
      · subst hr
        have h2 : y0 + n - y0 = n := by omega
        have h3 : (s.drawRows base x0 y0 n acc).1.pixel (y0 + n) c = acc.1.pixel (y0 + n) c := by
          rw [ih, if_neg]
          rintro ⟨_, _, _, h, _⟩
          omega
        rw [h2, h3]
        congr 1
        apply propext
        constructor
        · rintro ⟨_, h1, h4, h5, h6⟩
          exact ⟨by omega, h1, by omega, by omega, h4, h5, h6⟩
        · rintro ⟨_, h1, _, _, h4, h5, h6⟩
          exact ⟨rfl, h1, h4, h5, h6⟩
      · rw [if_neg (fun h => hr h.1), ih]
        congr 1
        apply propext
        constructor
        · rintro ⟨h1, h2, h3, h4, h5⟩
          exact ⟨h1, h2, h3, by omega, h5⟩
        · rintro ⟨h1, h2, h3, h4, h5⟩
          exact ⟨h1, h2, h3, by omega, h5⟩

/-- The collision after the first `n` rows: it was set before, or an on pixel of the screen lies under a
sprite bit that is 1 (R211, R212). -/
theorem State.drawRows_hit (s : State) (base x0 y0 n : Nat) (acc : Display × Bool) :
    (s.drawRows base x0 y0 n acc).2 = true ↔
      acc.2 = true ∨ ∃ k j, k < n ∧ y0 + k < 32 ∧ j < 8 ∧ x0 + j < 64 ∧
        spriteBit (s.memRead (base + k)) j = true ∧ acc.1.pixel (y0 + k) (x0 + j) = true := by
  induction n with
  | zero => simp [State.drawRows]
  | succ n ih =>
    simp only [State.drawRows]
    by_cases hoff : y0 + n > 31
    · simp only [hoff, if_true]
      rw [ih]
      constructor
      · rintro (h | ⟨k, j, h1, h2⟩)
        · exact Or.inl h
        · exact Or.inr ⟨k, j, by omega, h2⟩
      · rintro (h | ⟨k, j, h1, h2, h3⟩)
        · exact Or.inl h
        · exact Or.inr ⟨k, j, by omega, h2, h3⟩
    · simp only [hoff, if_false]
      rw [drawCols_hit _ (by omega), ih]
      have hpix : ∀ c, (s.drawRows base x0 y0 n acc).1.pixel (y0 + n) c = acc.1.pixel (y0 + n) c := by
        intro c
        rw [State.drawRows_pixel, if_neg]
        rintro ⟨_, _, _, h, _⟩
        omega
      simp only [hpix]
      constructor
      · rintro ((h | ⟨k, j, h1, h2⟩) | ⟨j, h1, h2, h3, h4⟩)
        · exact Or.inl h
        · exact Or.inr ⟨k, j, by omega, h2⟩
        · exact Or.inr ⟨n, j, by omega, by omega, h1, h2, h3, h4⟩
      · rintro (h | ⟨k, j, h1, h2, h3, h4, h5, h6⟩)
        · exact Or.inl (Or.inl h)
        · by_cases e : k = n
          · subst e
            exact Or.inr ⟨j, h3, h4, h5, h6⟩
          · exact Or.inl (Or.inr ⟨k, j, by omega, h2, h3, h4, h5, h6⟩)

end Sys2Proof.Machine
end

