-- ==== Sys2Proof/Laws/PerInstr.lean ====
section
/-!
SUPPORT. A statement about every instruction as syntax, one lemma per constructor: the word of an
instruction selects the row of the opcode map that stands for it (30_encoding.md R96, R97).
-/

namespace Sys2Proof.Laws.EncodeMatchesRow

open Sys2Proof

/-- The pattern of the row an instruction belongs to (R97). -/
def rowPattern : Instr → String
  | .cls => "00E0"
  | .ret => "00EE"
  | .jp _ => "1NNN"
  | .call _ => "2NNN"
  | .seImm _ _ => "3XNN"
  | .sneImm _ _ => "4XNN"
  | .seReg _ _ => "5XY0"
  | .sneReg _ _ => "9XY0"
  | .ldImm _ _ => "6XNN"
  | .addImm _ _ => "7XNN"
  | .ldReg _ _ => "8XY0"
  | .orReg _ _ => "8XY1"
  | .andReg _ _ => "8XY2"
  | .xorReg _ _ => "8XY3"
  | .addReg _ _ => "8XY4"
  | .sub _ _ => "8XY5"
  | .shr _ _ => "8XY6"
  | .subn _ _ => "8XY7"
  | .shl _ _ => "8XYE"
  | .ldI _ => "ANNN"
  | .jpV0 _ => "BNNN"
  | .rnd _ _ => "CXNN"
  | .drw _ _ _ => "DXYN"
  | .skp _ => "EX9E"
  | .sknp _ => "EXA1"
  | .ldVxDt _ => "FX07"
  | .ldDtVx _ => "FX15"
  | .ldStVx _ => "FX18"
  | .addIVx _ => "FX1E"
  | .ldVxK _ => "FX0A"
  | .ldFVx _ => "FX29"
  | .ldBVx _ => "FX33"
  | .ldMemVx _ => "FX55"
  | .ldVxMem _ => "FX65"

/-- Some row of the opcode map has the instruction's pattern and is selected by its word. -/
def Statement (i : Instr) : Prop :=
  ∃ r ∈ opcodeRows, r.pattern = rowPattern i ∧ r.selects (encode i) = true

/-! Masking a word of each format masks its parts. -/

theorem nnn_and_top (op : Nibble) (nnn : Addr12) :
    formatNNN op nnn &&& 0xF000#16 = formatNNN op 0#12 := by
  have h := append_and op 0xF#4 nnn 0#12
  rw [BitVec.and_zero] at h
  have hop : op &&& 0xF#4 = op := BitVec.and_allOnes
  rw [hop] at h
  exact h

theorem xnn_and_top (op : Nibble) (x : RegIdx) (nn : Byte) :
    formatXNN op x nn &&& 0xF000#16 = formatNNN op 0#12 := nnn_and_top op (x ++ nn)

theorem xyn_and_top (op : Nibble) (x y : RegIdx) (n : Nibble) :
    formatXYN op x y n &&& 0xF000#16 = formatNNN op 0#12 := nnn_and_top op (x ++ (y ++ n : Byte))

theorem xyn_and_function (op : Nibble) (x y : RegIdx) (n : Nibble) :
    formatXYN op x y n &&& 0xF00F#16 = formatXYN op 0#4 0#4 n := by
  have h1 := append_and y 0#4 n 0xF#4
  have h2 := append_and x 0#4 (y ++ n) (0#4 ++ 0xF#4)
  have h3 := append_and op 0xF#4 (x ++ (y ++ n)) (0#4 ++ (0#4 ++ 0xF#4))
  have hn : n &&& 0xF#4 = n := BitVec.and_allOnes
  have hop : op &&& 0xF#4 = op := BitVec.and_allOnes
  rw [h2, h1, BitVec.and_zero, BitVec.and_zero, hn, hop] at h3
  exact h3

theorem xnn_and_function (op : Nibble) (x : RegIdx) (nn : Byte) :
    formatXNN op x nn &&& 0xF0FF#16 = formatXNN op 0#4 nn := by
  have h2 := append_and x 0#4 nn 0xFF#8
  have h3 := append_and op 0xF#4 (x ++ nn) (0#4 ++ 0xFF#8)
  have hnn : nn &&& 0xFF#8 = nn := BitVec.and_allOnes
  have hop : op &&& 0xF#4 = op := BitVec.and_allOnes
  rw [h2, BitVec.and_zero, hnn, hop] at h3
  exact h3

/-- A row that is in the map, has the pattern and is selected by the word. -/
theorem of_row {i : Instr} (k : Fin 34) (hp : (opcodeRows[k.val]'k.isLt).pattern = rowPattern i)
    (hs : encode i &&& (opcodeRows[k.val]'k.isLt).mask = (opcodeRows[k.val]'k.isLt).value) :
    Statement i :=
  ⟨opcodeRows[k.val]'k.isLt, List.getElem_mem k.isLt, hp, by
    unfold OpcodeRow.selects
    rw [hs]
    exact beq_self_eq_true _⟩

theorem cls : Statement (.cls) := of_row 0 rfl rfl

theorem ret : Statement (.ret) := of_row 1 rfl rfl

theorem jp (nnn : Addr12) : Statement (.jp nnn) := of_row 2 rfl (nnn_and_top _ _)

theorem call (nnn : Addr12) : Statement (.call nnn) := of_row 3 rfl (nnn_and_top _ _)

theorem seImm (x : RegIdx) (nn : Byte) : Statement (.seImm x nn) := of_row 4 rfl (xnn_and_top _ _ _)

theorem sneImm (x : RegIdx) (nn : Byte) : Statement (.sneImm x nn) := of_row 5 rfl (xnn_and_top _ _ _)

theorem seReg (x y : RegIdx) : Statement (.seReg x y) := of_row 6 rfl (xyn_and_function _ _ _ _)

theorem sneReg (x y : RegIdx) : Statement (.sneReg x y) := of_row 7 rfl (xyn_and_function _ _ _ _)

theorem ldImm (x : RegIdx) (nn : Byte) : Statement (.ldImm x nn) := of_row 8 rfl (xnn_and_top _ _ _)

theorem addImm (x : RegIdx) (nn : Byte) : Statement (.addImm x nn) := of_row 9 rfl (xnn_and_top _ _ _)

theorem ldReg (x y : RegIdx) : Statement (.ldReg x y) := of_row 10 rfl (xyn_and_function _ _ _ _)

theorem orReg (x y : RegIdx) : Statement (.orReg x y) := of_row 11 rfl (xyn_and_function _ _ _ _)

theorem andReg (x y : RegIdx) : Statement (.andReg x y) := of_row 12 rfl (xyn_and_function _ _ _ _)

theorem xorReg (x y : RegIdx) : Statement (.xorReg x y) := of_row 13 rfl (xyn_and_function _ _ _ _)

theorem addReg (x y : RegIdx) : Statement (.addReg x y) := of_row 14 rfl (xyn_and_function _ _ _ _)

theorem sub (x y : RegIdx) : Statement (.sub x y) := of_row 15 rfl (xyn_and_function _ _ _ _)

theorem shr (x y : RegIdx) : Statement (.shr x y) := of_row 16 rfl (xyn_and_function _ _ _ _)

theorem subn (x y : RegIdx) : Statement (.subn x y) := of_row 17 rfl (xyn_and_function _ _ _ _)

theorem shl (x y : RegIdx) : Statement (.shl x y) := of_row 18 rfl (xyn_and_function _ _ _ _)

theorem ldI (nnn : Addr12) : Statement (.ldI nnn) := of_row 19 rfl (nnn_and_top _ _)

theorem jpV0 (nnn : Addr12) : Statement (.jpV0 nnn) := of_row 20 rfl (nnn_and_top _ _)

theorem rnd (x : RegIdx) (nn : Byte) : Statement (.rnd x nn) := of_row 21 rfl (xnn_and_top _ _ _)

theorem drw (x y : RegIdx) (n : Nibble) : Statement (.drw x y n) := of_row 22 rfl (xyn_and_top _ _ _ _)

theorem skp (x : RegIdx) : Statement (.skp x) := of_row 23 rfl (xnn_and_function _ _ _)

theorem sknp (x : RegIdx) : Statement (.sknp x) := of_row 24 rfl (xnn_and_function _ _ _)

theorem ldVxDt (x : RegIdx) : Statement (.ldVxDt x) := of_row 25 rfl (xnn_and_function _ _ _)

theorem ldDtVx (x : RegIdx) : Statement (.ldDtVx x) := of_row 26 rfl (xnn_and_function _ _ _)

theorem ldStVx (x : RegIdx) : Statement (.ldStVx x) := of_row 27 rfl (xnn_and_function _ _ _)

theorem addIVx (x : RegIdx) : Statement (.addIVx x) := of_row 28 rfl (xnn_and_function _ _ _)

theorem ldVxK (x : RegIdx) : Statement (.ldVxK x) := of_row 29 rfl (xnn_and_function _ _ _)

theorem ldFVx (x : RegIdx) : Statement (.ldFVx x) := of_row 30 rfl (xnn_and_function _ _ _)

theorem ldBVx (x : RegIdx) : Statement (.ldBVx x) := of_row 31 rfl (xnn_and_function _ _ _)

theorem ldMemVx (x : RegIdx) : Statement (.ldMemVx x) := of_row 32 rfl (xnn_and_function _ _ _)

theorem ldVxMem (x : RegIdx) : Statement (.ldVxMem x) := of_row 33 rfl (xnn_and_function _ _ _)

end Sys2Proof.Laws.EncodeMatchesRow
end

