-- ==== Sys2Proof/Tests/Slice0.lean ====
section
/-!
SUPPORT. The model's own tests: well-formedness, decoding, one step of each instruction and event (expected
values from 95_test_vectors.md, the vector named in each docstring), and for every obligation with hypotheses
a concrete state and operands that meet them all.
-/

namespace Sys2Proof.Tests

open Sys2Proof Sys2Proof.Machine

/-- A property of the next state. -/
def onNext (o : StepOutcome) (p : State → Bool) : Bool :=
  match o with
  | .next t => p t
  | .fault _ => false
  | .refused _ => false

/-- A property of the state behind the next one. -/
def onNext2 (o : StepOutcome) (p : State → Bool) : Bool := onNext o (fun t => onNext (step t) p)

/-- The reset state with a word at its pc. -/
def st (w : Nat) : State := State.reset.withFetchWord 16 w

/-- A state with its configuration changed. -/
def withCfg (s : State) (f : Cfg → Cfg) : State := { s with cfg := f s.cfg }

/-- A state with `n` entries on its stack, the top one `a`. -/
def withStack (s : State) (n : Fin 65) (a : Word) : State :=
  { s with sp := n, stack := s.stack.setIfInBounds (n.val - 1) a }

/-- A state in a key wait for register x. -/
def waitingFor (s : State) (x : RegIdx) : State := s.startWait x

/-- The pixels that are on, row by row, as numbers of columns. -/
def onPixels (s : State) (rows cols : List Nat) : List (Nat × Nat) :=
  rows.flatMap fun r => (cols.filter fun c => s.disp.pixel r c).map fun c => (c, r)

/-! ### Well-formedness (R5, R6, R7, R247) -/

theorem test_default_configuration_is_legal : Cfg.default.wf = true := by decide

theorem test_zero_rate_is_refused :
    Cfg.wf { Cfg.default with instructionsPerSecond := 0 } = false := by decide

theorem test_zero_time_unit_is_refused : Cfg.wf { Cfg.default with timeUnit := 0 } = false := by decide

theorem test_zero_catchup_is_refused :
    Cfg.wf { Cfg.default with maxCatchup := some 0 } = false := by decide

theorem test_catchup_of_one_is_legal :
    Cfg.wf { Cfg.default with maxCatchup := some 1 } = true := by decide

theorem test_longest_rom_is_accepted : Rom.wf (List.replicate 3583 0x00#8) = true := by
  unfold Rom.wf
  rw [List.length_replicate]
  decide

theorem test_rom_one_byte_too_long_is_refused : Rom.wf (List.replicate 3584 0x00#8) = false := by
  unfold Rom.wf
  rw [List.length_replicate]
  decide

/-- An ill-formed memory: an address out of order, and an entry equal to the reset content. -/
theorem test_memory_out_of_order_is_ill_formed :
    Memory.wf Font.conventional [(0x301, 0x01#8), (0x300, 0x01#8)] = false := by decide

theorem test_memory_listing_a_reset_byte_is_ill_formed :
    Memory.wf Font.conventional [(0x300, 0x00#8)] = false := by decide

theorem test_memory_beyond_the_end_is_ill_formed :
    Memory.wf Font.conventional [(0x1000, 0x01#8)] = false := by decide

/-! ### Decoding (V30-1 to V30-51), words written out from the encodings of R97 -/

theorem test_decode_control :
    decode [0b00000000#8, 0b11101110#8] = .ok (.ret, []) ∧
    decode [0b00011010#8, 0b10111100#8] = .ok (.jp 0xABC#12, []) ∧
    decode [0b00101111#8, 0b11111111#8] = .ok (.call 0xFFF#12, []) ∧
    decode [0b00111010#8, 0b01000010#8] = .ok (.seImm 0xA#4 0x42#8, []) ∧
    decode [0b01001011#8, 0b00000000#8] = .ok (.sneImm 0xB#4 0x00#8, []) ∧
    decode [0b01010001#8, 0b00100000#8] = .ok (.seReg 0x1#4 0x2#4, []) ∧
    decode [0b10011110#8, 0b11110000#8] = .ok (.sneReg 0xE#4 0xF#4, []) ∧
    decode [0b10110100#8, 0b01010110#8] = .ok (.jpV0 0x456#12, []) := by decide

theorem test_decode_alu :
    decode [0b01101100#8, 0b01111111#8] = .ok (.ldImm 0xC#4 0x7F#8, []) ∧
    decode [0b01111101#8, 0b00000001#8] = .ok (.addImm 0xD#4 0x01#8, []) ∧
    decode [0b10001010#8, 0b10110000#8] = .ok (.ldReg 0xA#4 0xB#4, []) ∧
    decode [0b10001010#8, 0b10110001#8] = .ok (.orReg 0xA#4 0xB#4, []) ∧
    decode [0b10001010#8, 0b10110010#8] = .ok (.andReg 0xA#4 0xB#4, []) ∧
    decode [0b10001010#8, 0b10110011#8] = .ok (.xorReg 0xA#4 0xB#4, []) := by decide

theorem test_decode_flag_writers :
    decode [0b10001010#8, 0b10110100#8] = .ok (.addReg 0xA#4 0xB#4, []) ∧
    decode [0b10001010#8, 0b10110101#8] = .ok (.sub 0xA#4 0xB#4, []) ∧
    decode [0b10001010#8, 0b10110110#8] = .ok (.shr 0xA#4 0xB#4, []) ∧
    decode [0b10001010#8, 0b10110111#8] = .ok (.subn 0xA#4 0xB#4, []) ∧
    decode [0b10001010#8, 0b10111110#8] = .ok (.shl 0xA#4 0xB#4, []) := by decide

theorem test_decode_index_memory :
    decode [0b10100001#8, 0b00100011#8] = .ok (.ldI 0x123#12, []) ∧
    decode [0b11110100#8, 0b00011110#8] = .ok (.addIVx 0x4#4, []) ∧
    decode [0b11110100#8, 0b00101001#8] = .ok (.ldFVx 0x4#4, []) ∧
    decode [0b11110100#8, 0b00110011#8] = .ok (.ldBVx 0x4#4, []) ∧
    decode [0b11110100#8, 0b01010101#8] = .ok (.ldMemVx 0x4#4, []) ∧
    decode [0b11110100#8, 0b01100101#8] = .ok (.ldVxMem 0x4#4, []) := by decide

theorem test_decode_display :
    decode [0b00000000#8, 0b11100000#8] = .ok (.cls, []) ∧
    decode [0b11010001#8, 0b00101111#8] = .ok (.drw 0x1#4 0x2#4 0xF#4, []) := by decide

theorem test_decode_random_keys_timers :
    decode [0b11000000#8, 0b11111111#8] = .ok (.rnd 0x0#4 0xFF#8, []) ∧
    decode [0b11100011#8, 0b10011110#8] = .ok (.skp 0x3#4, []) ∧
    decode [0b11100011#8, 0b10100001#8] = .ok (.sknp 0x3#4, []) ∧
    decode [0b11110100#8, 0b00000111#8] = .ok (.ldVxDt 0x4#4, []) ∧
    decode [0b11110100#8, 0b00001010#8] = .ok (.ldVxK 0x4#4, []) ∧
    decode [0b11110100#8, 0b00010101#8] = .ok (.ldDtVx 0x4#4, []) ∧
    decode [0b11110100#8, 0b00011000#8] = .ok (.ldStVx 0x4#4, []) := by decide

/-- V30-35 to V30-51: the unrecognized words. -/
theorem test_decode_unrecognized :
    [0x0000#16, 0x00E1#16, 0x00FE#16, 0x0EE0#16, 0x5121#16, 0x9AB8#16, 0x8AB8#16, 0x8AB9#16, 0x8ABA#16,
      0x8ABD#16, 0x8ABF#16, 0xE09F#16, 0xE0A2#16, 0xF000#16, 0xF456#16, 0xF41F#16, 0xFFFF#16].all
      (fun w => decide (decodeWord w = .error (.unrecognizedOpcode w))) = true := by decide

theorem test_decode_truncated :
    decode [] = .error .truncated ∧ decode [0x60#8] = .error .truncated := by decide

/-- The bytes of an instruction are laid out high byte first (R91), and what follows is left over. -/
theorem test_encode_bytes : encodeBytes (.ldImm 0xA#4 0x5C#8) = [0x6A#8, 0x5C#8] ∧
    decode [0x6A#8, 0x5C#8, 0x12#8] = .ok (.ldImm 0xA#4 0x5C#8, [0x12#8]) := by decide

theorem test_table_word : decodeTableWord 16 0xD12F = some (.drw 0x1#4 0x2#4 0xF#4) ∧
    decodeTableWord 16 0x0000 = none := by decide

/-! ### The instruction cycle (V40) -/

/-- V40-1. -/
theorem test_fetch_plain : onNext (step (st 0x6A5C))
    (fun t => t.readV 0xA#4 == 0x5C#8 && t.pc == 0x0202#16) = true := by decide

/-- V40-3: bytes at 0xFFF and 0x000; the pc wraps. -/
theorem test_fetch_wraps : onNext (step ((State.reset.setPc 0xFFFF#16).withFetchWord 16 0x6A5C))
    (fun t => t.readV 0xA#4 == 0x5C#8 && t.pc == 0x0001#16) = true := by decide

/-- V40-6, V40-7, V40-8. -/
theorem test_gating : onNext (cpuStep ((st 0x6A5C).setPaused true)) (fun t => t.pc == 0x0200#16) = true ∧
    onNext (cpuStep (waitingFor (st 0x6A5C) 3#4)) (fun t => t.pc == 0x0200#16) = true ∧
    onNext (cpuStep ((st 0x6A5C).setRunning false)) (fun t => t.pc == 0x0200#16) = true := by decide

/-- V60-14: zero memory is unrecognized and fatal. -/
theorem test_zero_word_is_fatal : onNext (step State.reset) (fun t => t.running == false &&
    t.fault == some ⟨.unrecognizedOpcode, 0x0000#16, 0x0200#16⟩ && t.pc == 0x0202#16) = true := by decide

/-! ### Control flow (V41) -/

/-- V41-3. -/
theorem test_ret : onNext (step (withStack (st 0x00EE) 2 0x1234#16))
    (fun t => t.pc == 0x1234#16 && t.sp == 1) = true := by decide

/-- V41-2. -/
theorem test_ret_underflow : onNext (step (st 0x00EE)) (fun t => t.running == false &&
    t.fault == some ⟨.stackUnderflow, 0x00EE#16, 0x0200#16⟩) = true := by decide

/-- V41-6. -/
theorem test_jp : onNext (step (st 0x1000)) (fun t => t.pc == 0x0000#16) = true := by decide

/-- V41-10: the pushed address wraps. -/
theorem test_call : onNext (step ((State.reset.setPc 0xFFFE#16).withFetchWord 16 0x2300))
    (fun t => t.pc == 0x0300#16 && t.sp == 1 && t.stack[0] == 0x0000#16) = true := by decide

/-- V41-9. -/
theorem test_call_overflow : onNext (step (withStack (st 0x2300) 64 0x0202#16))
    (fun t => t.running == false && t.sp == 64 &&
      t.fault == some ⟨.stackOverflow, 0x2300#16, 0x0200#16⟩) = true := by decide

/-- V41-13, V41-21. -/
theorem test_se_imm :
    onNext (step ((State.reset.writeV 0xF#4 0x01#8).withFetchWord 16 0x3F01))
      (fun t => t.pc == 0x0204#16) = true ∧
    onNext (step ((State.reset.setPc 0xFFFC#16).withFetchWord 16 0x3000))
      (fun t => t.pc == 0x0000#16) = true := by decide

/-- V41-14, V41-15. -/
theorem test_sne_imm :
    onNext (step ((State.reset.writeV 0#4 0x05#8).withFetchWord 16 0x4005))
      (fun t => t.pc == 0x0202#16) = true ∧
    onNext (step ((State.reset.writeV 0#4 0x06#8).withFetchWord 16 0x4005))
      (fun t => t.pc == 0x0204#16) = true := by decide

/-- V41-16 and V41-17 at another address. -/
theorem test_se_reg :
    onNext (step (((State.reset.writeV 2#4 0x07#8).writeV 3#4 0x07#8).withFetchWord 16 0x5230))
      (fun t => t.pc == 0x0204#16) = true ∧
    onNext (step (((State.reset.writeV 2#4 0x07#8).writeV 3#4 0x08#8).withFetchWord 16 0x5230))
      (fun t => t.pc == 0x0202#16) = true := by decide

/-- V41-19 at another address, V41-20. -/
theorem test_sne_reg :
    onNext (step (((State.reset.writeV 2#4 0x07#8).writeV 3#4 0x08#8).withFetchWord 16 0x9230))
      (fun t => t.pc == 0x0204#16) = true ∧
    onNext (step ((State.reset.writeV 4#4 0x99#8).withFetchWord 16 0x9440))
      (fun t => t.pc == 0x0202#16) = true := by decide

/-- V41-23. -/
theorem test_jp_v0 : onNext (step ((State.reset.writeV 0#4 0xFF#8).withFetchWord 16 0xBFFF))
    (fun t => t.pc == 0x10FE#16) = true := by decide

/-- V41-24: the quirk adds V3 and the 8-bit field. -/
theorem test_jp_vx :
    onNext (step ((withCfg ((State.reset.writeV 0#4 0x04#8).writeV 3#4 0x10#8)
        (fun c => { c with jumpWithVx := true })).withFetchWord 16 0xB320))
      (fun t => t.pc == 0x0030#16) = true := by decide

/-! ### Register and arithmetic (V42) -/

/-- The register file with V0, V1 and VF given. -/
def regs (a b f : Byte) : State := ((State.reset.writeV 0#4 a).writeV 1#4 b).writeV 0xF#4 f

/-- A step of a word on given V0, V1 and VF leads to given V0, V1 and VF, with the pc moved by 2. -/
def alu (w : Nat) (a b f a' b' f' : Byte) : Bool :=
  onNext (step ((regs a b f).withFetchWord 16 w))
    (fun t => t.readV 0#4 == a' && t.readV 1#4 == b' && t.readV 0xF#4 == f' && t.pc == 0x0202#16)

/-- V42-2. -/
theorem test_ld_imm : alu 0x6F7B 0 0 0x01 0 0 0x7B = true := by decide

/-- V42-5, V42-6. -/
theorem test_add_imm : alu 0x7102 0 0xFF 0x01 0 0x01 0x01 = true ∧
    alu 0x7F20 0 0 0xF0 0 0 0x10 = true := by decide

/-- V42-7 with V1 for V3. -/
theorem test_ld_reg : alu 0x81F0 0 0 0x01 0 0x01 0x01 = true := by decide

/-- V42-8. -/
theorem test_or : alu 0x8011 0xF0 0x0F 0x01 0xFF 0x0F 0x01 = true := by decide

/-- V42-9. -/
theorem test_and : alu 0x8012 0xF3 0x3C 0x01 0x30 0x3C 0x01 = true := by decide

/-- V42-10. -/
theorem test_xor : alu 0x8013 0xFF 0x0F 0x01 0xF0 0x0F 0x01 = true := by decide

/-- V42-15, V42-16. -/
theorem test_add_reg : alu 0x8014 0x80 0x80 0 0x00 0x80 0x01 = true ∧
    alu 0x8014 0x7F 0x80 0x01 0xFF 0x80 0x00 = true := by decide

/-- V42-19, V42-20: x = F keeps the flag, y = F reads the old VF. -/
theorem test_add_reg_vf : alu 0x8F14 0 0x20 0x10 0 0x20 0x00 = true ∧
    alu 0x80F4 0x05 0 0x01 0x06 0 0x00 = true := by decide

/-- V42-22, V42-23. -/
theorem test_sub : alu 0x8015 0x03 0x05 0x01 0xFE 0x05 0x00 = true ∧
    alu 0x8015 0x42 0x42 0x01 0x00 0x42 0x00 = true := by decide

/-- V42-26: the default shifts V1 into V0. -/
theorem test_shr : alu 0x8016 0xAA 0x05 0 0x02 0x05 0x01 = true := by decide

/-- V42-27: the quirk shifts V0. -/
theorem test_shr_quirk :
    onNext (step ((withCfg (regs 0x04 0xFF 0x01) (fun c => { c with shiftVx := true })).withFetchWord
        16 0x8016))
      (fun t => t.readV 0#4 == 0x02#8 && t.readV 1#4 == 0xFF#8 && t.readV 0xF#4 == 0x00#8) = true := by
  decide

/-- V42-31, V42-33. -/
theorem test_subn : alu 0x8017 0x03 0x05 0 0x02 0x05 0x01 = true ∧
    alu 0x8017 0x42 0x42 0x01 0x00 0x42 0x00 = true := by decide

/-- V42-34, V42-36. -/
theorem test_shl : alu 0x801E 0x00 0x81 0 0x02 0x81 0x01 = true ∧
    alu 0x800E 0xFF 0 0 0xFE 0 0x01 = true := by decide

/-! ### Index and memory (V43) -/

/-- V43-2. -/
theorem test_ld_i : onNext (step ((State.reset.setI 0x1234#16).withFetchWord 16 0xAFFF))
    (fun t => t.i == 0x0FFF#16) = true := by decide

/-- V43-5, V43-6. -/
theorem test_add_i :
    onNext (step (((State.reset.setI 0xFFFF#16).writeV 0#4 0x02#8).withFetchWord 16 0xF01E))
      (fun t => t.i == 0x0001#16 && t.readV 0xF#4 == 0x00#8) = true ∧
    onNext (step (((State.reset.setI 0x0100#16).writeV 0xF#4 0x01#8).withFetchWord 16 0xFF1E))
      (fun t => t.i == 0x0101#16 && t.readV 0xF#4 == 0x01#8) = true := by decide

/-- V43-7, V43-10. -/
theorem test_ld_f :
    onNext (step ((State.reset.writeV 0#4 0x05#8).withFetchWord 16 0xF029))
      (fun t => t.i == 0x0069#16) = true ∧
    onNext (step ((State.reset.writeV 0#4 0xFF#8).withFetchWord 16 0xF029))
      (fun t => t.i == 0x054B#16) = true := by decide

/-- V43-14: the third byte wraps to 0x000. -/
theorem test_ld_b :
    onNext (step (((State.reset.setI 0x0FFE#16).writeV 4#4 0x7B#8).withFetchWord 16 0xF433))
      (fun t => t.memRead 0xFFE == 0x01#8 && t.memRead 0xFFF == 0x02#8 && t.memRead 0x000 == 0x03#8 &&
        t.i == 0x0FFE#16) = true := by decide

/-- V43-17: the quirk; V2 is not stored. -/
theorem test_store_regs :
    onNext (step ((withCfg ((((State.reset.setI 0x0308#16).writeV 0#4 0x12#8).writeV 1#4 0x0A#8).writeV
        2#4 0x77#8) (fun c => { c with setRegistersIncrementIndex := true })).withFetchWord 16 0xF155))
      (fun t => t.memRead 0x308 == 0x12#8 && t.memRead 0x309 == 0x0A#8 && t.memRead 0x30A == 0x00#8 &&
        t.i == 0x030A#16) = true := by decide

/-- V43-20, and V43-18: the option of FX65 does not move I here. -/
theorem test_store_regs_wraps :
    onNext (step ((withCfg (((State.reset.setI 0x0FFF#16).writeV 0#4 0xA1#8).writeV 1#4 0xB2#8)
        (fun c => { c with loadRegistersIncrementIndex := true })).withFetchWord 16 0xF155))
      (fun t => t.memRead 0xFFF == 0xA1#8 && t.memRead 0x000 == 0xB2#8 && t.i == 0x0FFF#16) = true := by
  decide

/-- V43-23. -/
theorem test_load_regs :
    onNext (step ((withCfg ((((State.reset.setI 0x0300#16).memWrite 0x300 0x01#8).memWrite 0x301
        0x05#8).memWrite 0x302 0x07#8) (fun c => { c with loadRegistersIncrementIndex := true })).withFetchWord
        16 0xF265))
      (fun t => t.readV 0#4 == 0x01#8 && t.readV 1#4 == 0x05#8 && t.readV 2#4 == 0x07#8 &&
        t.readV 3#4 == 0x00#8 && t.i == 0x0303#16) = true := by decide

/-- V43-25, and V43-24: the option of FX55 does not move I here. -/
theorem test_load_regs_wraps :
    onNext (step ((withCfg (((State.reset.setI 0x0FFF#16).memWrite 0xFFF 0x5A#8).memWrite 0x000 0xA5#8)
        (fun c => { c with setRegistersIncrementIndex := true })).withFetchWord 16 0xF165))
      (fun t => t.readV 0#4 == 0x5A#8 && t.readV 1#4 == 0xA5#8 && t.i == 0x0FFF#16) = true := by decide

/-! ### Display (V44) -/

/-- The reset state with a pixel flipped. -/
def withPixel (s : State) (row col : Nat) : State := s.setDisp (s.disp.toggle row col)

/-- V44-1. -/
theorem test_cls : onNext (step (withPixel (withPixel (st 0x00E0) 0 0) 31 63))
    (fun t => decide (t.disp = Display.clear) && t.needsRedraw) = true := by decide

/-- V44-14: partial overlap. -/
theorem test_draw_collision :
    onNext (step ((withPixel (withPixel ((State.reset.setI 0x0300#16).memWrite 0x300 0xF0#8) 0 1) 0
        4).withFetchWord 16 0xD011))
      (fun t => decide (onPixels t [0, 1] [0, 1, 2, 3, 4, 5] = [(0, 0), (2, 0), (3, 0), (4, 0)]) &&
        t.readV 0xF#4 == 0x01#8 && t.needsRedraw) = true := by decide

/-- V44-7: row modulus 32, clipped at the corner. -/
theorem test_draw_clipped :
    onNext (step ((withCfg (((((State.reset.setI 0x0300#16).memWrite 0x300 0xC0#8).memWrite 0x301
        0x80#8).writeV 1#4 0x3E#8).writeV 2#4 0x3E#8)
        (fun c => { c with drawYMod := .mod32 })).withFetchWord 16 0xD122))
      (fun t => decide (onPixels t [0, 30, 31] [0, 1, 62, 63] = [(62, 30), (63, 30), (62, 31)]) &&
        t.readV 0xF#4 == 0x00#8) = true := by decide

/-- V44-12, V44-16: a coordinate from the old VF; rows from 0xFFF then 0x000. -/
theorem test_draw_vf_and_wrap :
    onNext (step (((((State.reset.setI 0x0FFF#16).memWrite 0xFFF 0x80#8).memWrite 0x000 0x40#8).writeV
        0xF#4 0x05#8).withFetchWord 16 0xDF12))
      (fun t => decide (onPixels t [0, 1] [0, 1, 5, 6, 7] = [(5, 0), (6, 1)]) &&
        t.readV 0xF#4 == 0x00#8) = true := by decide

/-! ### Random, keyboard, timers (V45) -/

/-- V45-1: the draw 0xA7 under the mask 0x0F. -/
theorem test_rnd : (State.reset.rndWith 0xA7#8 1#4 0x0F#8).readV 1#4 = 0x07#8 ∧
    (State.reset.rndWith 0xA7#8 1#4 0x0F#8).draws = 1 := by decide

/-- V45-4, V45-6: the whole 8-bit value names the key. -/
theorem test_skp :
    onNext (step (((State.reset.writeV 0#4 0x05#8).setKey 5#8 true).withFetchWord 16 0xE09E))
      (fun t => t.pc == 0x0204#16) = true ∧
    onNext (step (((State.reset.writeV 0#4 0x15#8).setKey 5#8 true).withFetchWord 16 0xE09E))
      (fun t => t.pc == 0x0202#16) = true := by decide

/-- V45-8, V45-9. -/
theorem test_sknp :
    onNext (step (((State.reset.writeV 0#4 0x05#8).setKey 5#8 true).withFetchWord 16 0xE0A1))
      (fun t => t.pc == 0x0202#16) = true ∧
    onNext (step (((State.reset.writeV 0#4 0xFF#8).setKey 15#8 true).withFetchWord 16 0xE0A1))
      (fun t => t.pc == 0x0204#16) = true := by decide

/-- V45-10. -/
theorem test_ld_vx_dt : onNext (step ((State.reset.setDt 0x2A#8).withFetchWord 16 0xF207))
    (fun t => t.readV 2#4 == 0x2A#8) = true := by decide

/-- V45-11. -/
theorem test_ld_dt_vx : onNext (step ((State.reset.writeV 0#4 0x03#8).withFetchWord 16 0xF015))
    (fun t => t.dt == 0x03#8 && t.st == 0x00#8) = true := by decide

/-- V45-12. -/
theorem test_ld_st_vx : onNext (step ((State.reset.writeV 0#4 0x1E#8).withFetchWord 16 0xF018))
    (fun t => t.st == 0x1E#8 && t.dt == 0x00#8) = true := by decide

/-- V45-17: the pc stays past the FX0A, and the key index goes to VF. -/
theorem test_key_wait :
    onNext2 (step { st 0xFF0A with agenda := [.event .cpuStep, .event (.keyDown 11#8)] })
      (fun t => t.readV 0xF#4 == 0x0B#8 && t.pc == 0x0202#16 && t.waiting == false &&
        t.keyPressed 11#8) = true := by decide

/-! ### Events (V60) and the scheduler -/

/-- V60-1, V60-2. -/
theorem test_timer_tick :
    (timerTick ((State.reset.setDt 0x02#8).setSt 0x01#8)).dt = 0x01#8 ∧
    (timerTick ((State.reset.setDt 0x02#8).setSt 0x01#8)).st = 0x00#8 ∧
    (timerTick State.reset).dt = 0x00#8 := by decide

/-- V60-9: a key resolves the wait while paused. -/
theorem test_key_down_while_paused :
    (keyDown 9#8 ((waitingFor State.reset 2#4).setPaused true)).readV 2#4 = 0x09#8 ∧
    (keyDown 9#8 ((waitingFor State.reset 2#4).setPaused true)).waiting = false := by decide

/-- V60-34: one iteration of 1/60 second (500 units of 1/30000) issues 8 steps and 1 tick; the rest is 1/1500
second (10000 units of 1/15000000). -/
theorem test_iteration : drain Cfg.default 0 0 500 = ⟨8, 1, 10000, 0⟩ := by decide

/-- V60-33: 7/10 second then 3/10 second. -/
theorem test_iterations_add_up : issuedOver Cfg.default 0 0 [21000, 9000] = (500, 60) := by decide

/-- R291: the longest ROM fits; a ROM byte lands at 0x200. -/
theorem test_construct : onNext (State.construct Cfg.default [0x12#8, 0x00#8])
    (fun t => t.memRead 0x200 == 0x12#8 && t.memRead 0x050 == 0xF0#8 && t.pc == 0x0200#16) = true := by
  decide

/-! ### A state and operands that meet the hypotheses of each obligation, clause by clause -/

/-- The clauses of ResetLeavesStatedValues over addresses, stack entries, symbols: the ends of their ranges. -/
theorem test_witness_ResetLeavesStatedValues :
    (0x04F < 4096 ∧ ¬(0x050 ≤ 0x04F ∧ 0x04F < 0x0A0)) ∧ (0x0A0 < 4096 ∧ ¬(0x050 ≤ 0x0A0 ∧ 0x0A0 < 0x0A0)) ∧
    (63 < 64) ∧ (15 < 16) ∧ (4 < 5) := by decide

/-- A ROM of the greatest length and one a byte longer; the byte after a one byte ROM, and its neighbours. -/
theorem test_witness_ConstructionLoadsFontAndRom :
    (List.replicate 3583 0x00#8).length ≤ 3583 ∧ 3583 < (List.replicate 3584 0x00#8).length ∧
    (0x201 < 4096 ∧ ¬(0x050 ≤ 0x201 ∧ 0x201 < 0x0A0) ∧ ¬(0x200 ≤ 0x201 ∧ 0x201 < 0x200 + [0x12#8].length)) := by
  rw [List.length_replicate, List.length_replicate]
  decide

/-- The invariant holds of a state whose memory lists bytes. -/
theorem test_st_inv : (st 0x1200).Inv := ⟨by decide, by decide, by decide⟩

theorem test_witness_StepKeepsInvariant :
    (st 0x1200).Inv ∧ onNext (step (st 0x1200)) (fun t => t.pc == 0x0200#16) = true :=
  ⟨test_st_inv, by decide⟩

/-- A constructed machine with inputs to come, and the state after its first step, are reachable. -/
theorem test_witness_ReachableStatesSatisfyInvariant :
    Reachable (State.reset.setAgenda [.event .quit]) ∧
      Reachable ((State.reset.setAgenda []).setRunning false) :=
  ⟨.start (cfg := Cfg.default) (rom := []) [.event .quit] (by decide) rfl,
    .after (.start (cfg := Cfg.default) (rom := []) [.event .quit] (by decide) rfl) rfl⟩

theorem test_witness_EncodeInvertsDecode : decodeWord 0xD12F#16 = .ok (.drw 0x1#4 0x2#4 0xF#4) := by decide

/-- A word that selects a row, and one that selects none. -/
theorem test_witness_DecoderFollowsOpcodeMap :
    (opcodeRows[33]'(by decide)).selects 0xF465#16 = true ∧
    (opcodeRows.all fun r => !r.selects 0xF456#16) = true := by decide

/-- Both forms: no input listed, and a CpuStep listed first. -/
theorem test_witness_StepRunsDecodedInstruction :
    (st 0x1234).running = true ∧ (st 0x1234).paused = false ∧ (st 0x1234).waiting = false ∧
    decode [(st 0x1234).memRead (st 0x1234).pc.toNat, (st 0x1234).memRead ((st 0x1234).pc.toNat + 1)] =
      .ok (.jp 0x234#12, []) ∧ (st 0x1234).agenda = [] ∧
    ((st 0x1234).setAgenda [.event .cpuStep, .event .quit]).agenda = .event .cpuStep :: [.event .quit] := by
  decide

theorem test_witness_CpuStepActsOnlyWhenRunning :
    ((st 0x1234).setRunning false).running = false ∧ ((st 0x1234).setPaused true).paused = true ∧
    (waitingFor (st 0x1234) 3#4).waiting = true := by decide

theorem test_witness_SelfJumpLeavesStateUnchanged :
    (st 0x1200).running = true ∧ (st 0x1200).paused = false ∧ (st 0x1200).waiting = false ∧
    decode [(st 0x1200).memRead (st 0x1200).pc.toNat, (st 0x1200).memRead ((st 0x1200).pc.toNat + 1)] =
      .ok (.jp 0x200#12, []) ∧ (0x200#12).toNat = (st 0x1200).pc.toNat := by decide

/-- Each piece of state is written by some instruction: a case of every clause with its premise true. -/
theorem test_witness_OnlyNamedInstructionsWrite :
    onNext (exec .ret State.reset) (fun t => t.running != State.reset.running) = true ∧
    onNext (exec (.ldDtVx 0#4) (regs 1 0 0)) (fun t => t.fault == none && t.dt != (regs 1 0 0).dt) = true ∧
    onNext (exec (.ldStVx 0#4) (regs 1 0 0)) (fun t => t.fault == none && t.st != (regs 1 0 0).st) = true ∧
    onNext (exec (.ldI 0x300#12) State.reset) (fun t => t.fault == none && t.i != State.reset.i) = true ∧
    onNext (exec (.ldBVx 0#4) (regs 100 0 0)) (fun t => t.fault == none && t.mem != (regs 100 0 0).mem) = true ∧
    onNext (exec .cls (withPixel State.reset 0 0))
      (fun t => t.fault == none && t.disp != (withPixel State.reset 0 0).disp && t.needsRedraw) = true ∧
    onNext (exec (.call 0x300#12) State.reset)
      (fun t => t.fault == none && t.sp != State.reset.sp && t.pc != State.reset.pc) = true ∧
    onNext (exec (.ldVxK 1#4) State.reset) (fun t => t.fault == none && t.waiting) = true ∧
    onNext (exec (.rnd 0#4 0#8) State.reset) (fun t => t.fault == none && t.draws != 0) = true := by decide

/-- Each case of R21's table: the X field, V0 to Vx, VF as a flag and as a collision; VF not by FX55. -/
theorem test_witness_OnlyNamedInstructionsWrite_registers :
    onNext (exec (.ldImm 1#4 7#8) State.reset)
      (fun t => t.fault == none && t.readV 1#4 != State.reset.readV 1#4) = true ∧
    onNext (exec (.ldReg 1#4 0#4) (regs 3 0 0))
      (fun t => t.fault == none && t.readV 1#4 != (regs 3 0 0).readV 1#4) = true ∧
    onNext (exec (.ldVxDt 1#4) (State.reset.setDt 9#8))
      (fun t => t.fault == none && t.readV 1#4 != State.reset.readV 1#4) = true ∧
    onNext (exec (.ldVxMem 0xF#4) (State.reset.memWrite 0x00F 5#8))
      (fun t => t.fault == none && t.readV 0xF#4 != State.reset.readV 0xF#4) = true ∧
    onNext (exec (.addReg 0#4 1#4) (regs 255 1 0))
      (fun t => t.fault == none && t.readV 0xF#4 != (regs 255 1 0).readV 0xF#4) = true ∧
    onNext (exec (.drw 0#4 1#4 0#4) (regs 0 0 1))
      (fun t => t.fault == none && t.readV 0xF#4 != (regs 0 0 1).readV 0xF#4) = true := by decide

theorem test_witness_NoInstructionReadsSoundTimer :
    onNext (exec (.addImm 1#4 1#8) State.reset) (fun t => t.fault == none) = true ∧
    onNext (exec (.ldStVx 1#4) State.reset) (fun t => t.fault == none) = true := by decide

theorem test_witness_StepKeepsConfiguration :
    onNext (step (st 0x1200)) (fun t => t.pc == 0x0200#16) = true := by decide

/-- The conditions shared by the clauses of FatalErrorsAreRecorded, with the word at the pc. -/
def fetches (s : State) (w : Word) : Bool :=
  s.running && !s.paused && !s.waiting &&
    decide (w = wordOfBytes (s.memRead s.pc.toNat) (s.memRead (s.pc.toNat + 1)))

/-- One state for each of the three kinds. -/
theorem test_witness_FatalErrorsAreRecorded :
    (fetches (st 0x5121) 0x5121#16 = true ∧
      decodeWord 0x5121#16 = .error (.unrecognizedOpcode 0x5121#16)) ∧
    (fetches (withStack (st 0x2300) 64 0) 0x2300#16 = true ∧ decodeWord 0x2300#16 = .ok (.call 0x300#12) ∧
      (withStack (st 0x2300) 64 0).sp.val = 64) ∧
    (fetches (st 0x00EE) 0x00EE#16 = true ∧ decodeWord 0x00EE#16 = .ok .ret ∧ (st 0x00EE).sp.val = 0) := by
  decide

theorem test_witness_OnlyThreeFatalErrors :
    (st 0x00EE).fault = none ∧ onNext (step (st 0x00EE)) (fun t => t.fault.isSome) = true ∧
    onNext (step (withStack (st 0x2300) 64 0)) (fun t => t.fault.isSome) = true ∧
    onNext (step (st 0x5121)) (fun t => t.fault.isSome) = true := by decide

/-- A machine that has taken a fatal error, with an input to come. -/
def faulted : State := (State.reset.raiseFatal .stackUnderflow 0x00EE#16).setAgenda [.event (.keyDown 3#8)]

theorem test_witness_FaultIsNeverCleared :
    faulted.Inv ∧ faulted.fault = some ⟨.stackUnderflow, 0x00EE#16, 0x01FE#16⟩ ∧
      onNext (step faulted) (fun t => t.agenda == []) = true :=
  ⟨⟨by decide, by decide, by decide⟩, by decide, by decide⟩

theorem test_witness_StoppedIsAbsorbing :
    faulted.running = false ∧ onNext (step faulted) (fun t => t.agenda == []) = true := by decide

/-- A self-jump: its two step run is safe. -/
theorem test_witness_SafeRunsHaveSafePrefixes : (st 0x1200).Inv ∧ SafeRun 2 (st 0x1200) :=
  ⟨test_st_inv, by
    have h : onNext (run 2 (st 0x1200)) (fun _ => true) = true := by decide
    unfold SafeRun
    revert h
    cases run 2 (st 0x1200) with
    | next t => exact fun _ => ⟨t, rfl⟩
    | fault r => exact fun h => nomatch h
    | refused r => exact fun h => nomatch h⟩

/-- A carry and none; x other than 0xF, and another register. -/
theorem test_witness_AddRegistersSetsCarry :
    ((regs 255 1 0).readV 0#4).toNat + ((regs 255 1 0).readV 1#4).toNat > 255 ∧
    ¬((regs 254 1 0).readV 0#4).toNat + ((regs 254 1 0).readV 1#4).toNat > 255 ∧
    (0#4 : RegIdx) ≠ 0xF#4 ∧ (2#4 : RegIdx) ≠ 0#4 ∧ (2#4 : RegIdx) ≠ 0xF#4 := by decide

/-- A greater minuend, and the equal operands that set no flag. -/
theorem test_witness_SubtractionsSetStrictFlag :
    ((regs 2 1 0).readV 0#4).toNat > ((regs 2 1 0).readV 1#4).toNat ∧
    ¬((regs 1 1 0).readV 0#4).toNat > ((regs 1 1 0).readV 1#4).toNat ∧
    ((regs 1 1 0).readV 0#4).toNat ≥ ((regs 1 1 0).readV 1#4).toNat := by decide

/-- Equal and unequal operands of the compare skips. -/
theorem test_witness_CompareSkipsMoveOnlyPc :
    (regs 1 1 0).readV 0#4 = (regs 1 1 0).readV 1#4 ∧ (regs 1 2 0).readV 0#4 ≠ (regs 1 2 0).readV 1#4 ∧
    (regs 1 1 0).readV 0#4 = 1#8 ∧ (regs 1 1 0).readV 0#4 ≠ 2#8 := by decide

/-- The source of a shift in both variants; the premises of the two flag clauses at 0x80 and 0x7F, and of the
result clause at x other than 0xF. -/
theorem test_witness_ShiftsMoveByOneBit :
    (0x7F = if (regs 0x80 0x7F 0).cfg.shiftVx = true then ((regs 0x80 0x7F 0).readV 0#4).toNat
      else ((regs 0x80 0x7F 0).readV 1#4).toNat) ∧
    (0x80 = if (withCfg (regs 0x80 0x7F 0) (fun c => { c with shiftVx := true })).cfg.shiftVx = true then
      ((regs 0x80 0x7F 0).readV 0#4).toNat else ((regs 0x80 0x7F 0).readV 1#4).toNat) ∧
    0x80 ≥ 128 ∧ ¬0x7F ≥ 128 ∧ 0x7F % 2 = 1 ∧ ¬0x80 % 2 = 1 ∧ (0#4 : RegIdx) ≠ 0xF#4 := by decide

theorem test_witness_JumpsMoveOnlyPc : State.reset.cfg.jumpWithVx = false ∧
    (withCfg State.reset (fun c => { c with jumpWithVx := true })).cfg.jumpWithVx = true := by decide

/-- The last push that succeeds, and the first that does not. -/
theorem test_witness_CallPushesReturnAddress :
    (withStack State.reset 63 0).sp.val < 64 ∧ (withStack State.reset 64 0).sp.val = 64 := by decide

theorem test_witness_ReturnPopsIntoPc :
    0 < (withStack State.reset 1 0x0206#16).sp.val ∧ 0 < (withStack State.reset 64 0x0206#16).sp.val ∧
      State.reset.sp.val = 0 := by decide

/-- 64 calls from an empty stack. -/
theorem test_witness_ReturnsReverseCalls :
    State.reset.sp.val + (List.replicate 64 (0x0202#16, 0x200#12)).length ≤ 64 ∧
      State.reset.fault = none := by decide

/-- Memory in canonical form with a byte listed; an address outside the three stored bytes. -/
theorem test_witness_DecimalDigitsAreStored :
    Memory.wf (st 0xF433).cfg.font (st 0xF433).mem = true ∧
      ∀ k, k < 3 → 0xFFF % 4096 ≠ (st 0xF433).effAddr k % 4096 := by decide

/-- Both values of the option; x = 0 and x = 0xF; an address just outside the stored block. -/
theorem test_witness_RegistersAreStored :
    Memory.wf (st 0xFF55).cfg.font (st 0xFF55).mem = true ∧
      (∀ k, k ≤ (0xF#4 : RegIdx).toNat → 16 % 4096 ≠ (st 0xFF55).effAddr k % 4096) ∧
      (∀ k, k ≤ (0#4 : RegIdx).toNat → 1 % 4096 ≠ (st 0xFF55).effAddr k % 4096) ∧
      (st 0xFF55).cfg.setRegistersIncrementIndex = false ∧
      (withCfg (st 0xFF55) (fun c => { c with setRegistersIncrementIndex := true })).cfg.setRegistersIncrementIndex
        = true := by decide

theorem test_witness_RegistersAreLoaded :
    (0xF#4 : RegIdx).toNat ≤ (0xF#4 : RegIdx).toNat ∧ (0#4 : RegIdx).toNat < (1#4 : RegIdx).toNat ∧
      (st 0xFF65).cfg.loadRegistersIncrementIndex = false ∧
      (withCfg (st 0xFF65)
        (fun c => { c with loadRegistersIncrementIndex := true })).cfg.loadRegistersIncrementIndex = true := by
  decide

/-- I at the last byte, pc one before it: the low byte of the word fetched next is stored to, the high byte is
not; x = 0 stores that byte alone. With FX33 and the pc at the third digit it is the high byte. -/
def storeState (pc : Word) : State := (((State.reset.setI 0x0FFF#16).setPc pc).writeV 0#4 0x9D#8)

theorem test_witness_StoredBytesAreFetched :
    Memory.wf (storeState 0x1FFE#16).cfg.font (storeState 0x1FFE#16).mem = true ∧
    (((storeState 0x1FFE#16).pc.toNat + 1) % 4096 = (storeState 0x1FFE#16).effAddr 0 % 4096 ∧
      ∀ k, k < (0#4 : RegIdx).toNat + 1 →
        (storeState 0x1FFE#16).pc.toNat % 4096 ≠ (storeState 0x1FFE#16).effAddr k % 4096) ∧
    ((storeState 0x0001#16).pc.toNat % 4096 = (storeState 0x0001#16).effAddr 2 % 4096 ∧
      ∀ k, k < 3 → ((storeState 0x0001#16).pc.toNat + 1) % 4096 ≠ (storeState 0x0001#16).effAddr k % 4096) := by
  decide

/-- The digits of 0x9D = 157 stored at 0xFFF, 0x000, 0x001 (R193), fetched as R75 says: the second and third as
one word at 0x000, the third as the high byte at 0x001. -/
theorem test_store_then_fetch :
    onNext (exec (.ldBVx 0#4) (storeState 0x0000#16)) (fun t => t.fetchWord == 0x0507#16) = true ∧
    onNext (exec (.ldBVx 0#4) (storeState 0x0001#16)) (fun t => t.fetchWord == 0x0700#16) = true ∧
    onNext (exec (.ldMemVx 0#4) (storeState 0x1FFE#16)) (fun t => t.fetchWord == 0x009D#16) = true := by decide

/-- A sprite byte 0xC1 at I, drawn at (62, 31), with the pixel (63, 31) on. -/
def drawState : State :=
  withPixel ((((State.reset.setI 0x0300#16).memWrite 0x300 0xC1#8).writeV 0#4 62#8).writeV 1#4 31#8) 31 63

/-- The corner pixel lies under a sprite bit 1 and is on; the clipped bit 0 is no pixel; with nothing on the
screen no pixel collides. -/
theorem test_witness_DrawFlipsSpritePixels :
    62 = (drawState.readV 0#4).toNat % 64 ∧ 31 = (drawState.readV 1#4).toNat % drawState.cfg.drawYMod.toNat ∧
    (SpritePixelOn drawState 62 31 1 31 63 ∧ drawState.disp.pixel 31 63 = true) ∧
    ¬SpritePixelOn drawState 62 31 1 31 69 ∧ ¬SpritePixelOn drawState 62 31 1 30 63 ∧
    (∀ row col, SpritePixelOn (drawState.setDisp Display.clear) 62 31 1 row col →
      (drawState.setDisp Display.clear).disp.pixel row col = false) := by
  refine ⟨by decide, by decide, ⟨?_, by decide⟩, ?_, ?_, fun row col _ => ?_⟩
  · unfold SpritePixelOn
    decide
  · unfold SpritePixelOn
    decide
  · unfold SpritePixelOn
    decide
  · unfold Display.pixel State.setDisp Display.clear
    split
    · simp
    · rfl

theorem test_witness_DrawingTwiceRestoresDisplay :
    (0#4 : RegIdx) ≠ 0xF#4 ∧ (1#4 : RegIdx) ≠ 0xF#4 ∧
      onNext (exec (.drw 0#4 1#4 1#4) drawState)
        (fun t => onNext (exec (.drw 0#4 1#4 1#4) t) (fun _ => true)) = true := by decide

/-- Rows 31 and 32. -/
theorem test_witness_RowModulusMattersOnlyBelowScreen :
    ((regs 0 31 0).readV 1#4).toNat % 64 < 32 ∧ (regs 0 32 0).cfg.drawYMod = .mod64 ∧
      32 ≤ ((regs 0 32 0).readV 1#4).toNat % 64 := by decide

/-- A bit that is 0 in the mask; another register. -/
theorem test_witness_RandomIsMasked : (0x0F#8).getLsbD 4 = false ∧ (1#4 : RegIdx) ≠ 0#4 := by decide

/-- Key 15 pressed and named by Vx; 16 names no key. -/
theorem test_witness_KeySkipsReadOneKey :
    (True ↔ ∃ h : (((regs 15 0 0).setKey 15#8 true).readV 0#4).toNat < 16,
      ((regs 15 0 0).setKey 15#8 true).keys[(((regs 15 0 0).setKey 15#8 true).readV 0#4).toNat] = true) ∧
    (False ↔ ∃ h : (((regs 16 0 0).setKey 15#8 true).readV 0#4).toNat < 16,
      ((regs 16 0 0).setKey 15#8 true).keys[(((regs 16 0 0).setKey 15#8 true).readV 0#4).toNat] = true) := by
  decide

/-- Index 16, and index 15 in a key wait and outside one. -/
theorem test_witness_KeyDownEndsKeyWait :
    15 < (16#8).toNat ∧ (State.reset.running = true ∧ (15#8).toNat ≤ 15) ∧
      ((waitingFor State.reset 2#4).running = true ∧ (waitingFor State.reset 2#4).waiting = true) ∧
      State.reset.waiting = false := by decide

/-- Index 16, and index 15, running and not. -/
theorem test_witness_KeyUpClearsOneKey :
    15 < (16#8).toNat ∧ (State.reset.running = true ∧ (15#8).toNat ≤ 15) ∧
      (State.reset.setRunning false).running = false := by decide

/-- A running state that meets the invariant, in a key wait and paused. -/
theorem test_witness_QuitIsACleanStop :
    ((waitingFor (st 0x1200) 3#4).setPaused true).Inv ∧
      ((waitingFor (st 0x1200) 3#4).setPaused true).running = true :=
  ⟨⟨by decide, by decide, by decide⟩, by decide⟩

theorem test_witness_TimerTickCountsDown :
    (State.reset.setRunning false).running = false ∧ (State.reset.setPaused true).paused = true ∧
      (State.reset.running = true ∧ State.reset.paused = false) := by decide

theorem test_witness_PauseFreezesTheCore :
    (State.reset.setRunning false).running = false ∧ State.reset.running = true ∧
      (State.reset.setPaused true).paused = true ∧
      onNext (applyEvent .pauseToggle State.reset) (fun t => t.paused) = true := by decide

theorem test_witness_PresentHandsOverTheGrid :
    ((State.reset.setNeedsRedraw true).running = true ∧ (State.reset.setNeedsRedraw true).needsRedraw = true) ∧
      (State.reset.setRunning false).running = false ∧ State.reset.needsRedraw = false := by decide

/-- One event that leaves each of the three run states that can be left. -/
theorem test_witness_RunStateIsLeftByNamedEvents :
    (State.reset.runState = .running ∧
      onNext (applyEvent .cpuStep State.reset) (fun t => decide (t.runState ≠ State.reset.runState)) = true) ∧
    ((State.reset.setPaused true).runState = .paused ∧
      onNext (applyEvent .pauseToggle (State.reset.setPaused true))
        (fun t => decide (t.runState ≠ .paused)) = true) ∧
    ((waitingFor State.reset 1#4).runState = .waitingForKey ∧
      onNext (applyEvent (.keyDown 7#8) (waitingFor State.reset 1#4))
        (fun t => decide (t.runState ≠ .waitingForKey)) = true) := by decide

/-- An edge of each kind. -/
theorem test_witness_BeepEdgesComeFromSoundTimer :
    onNext (exec (.ldStVx 0#4) (regs 1 0 0))
      (fun t => t.fault == none && decide (audioSignal (regs 1 0 0) t = some .startBeep)) = true ∧
    onNext (exec (.ldStVx 0#4) (State.reset.setSt 9#8))
      (fun t => t.fault == none && decide (audioSignal (State.reset.setSt 9#8) t = some .stopBeep)) = true ∧
    onNext (applyEvent .timerTick (State.reset.setSt 1#8))
      (fun t => decide (audioSignal (State.reset.setSt 1#8) t = some .stopBeep)) = true := by decide

/-- Running and paused; unbounded and bounded catch-up. -/
theorem test_witness_IterationDrainsAccumulators :
    (State.reset.setAgenda [.iterate 500]).agenda = .iterate 500 :: [] ∧
      (State.reset.setAgenda [.iterate 500]).cfg.wf = true ∧
      ((State.reset.setAgenda [.iterate 500]).running = true ∧
        (State.reset.setAgenda [.iterate 500]).paused = false) ∧
      (State.reset.setPaused true).paused = true ∧ State.reset.cfg.maxCatchup = none ∧
      ((withCfg State.reset (fun c => { c with maxCatchup := some 1 })).cfg.maxCatchup = some 1 ∧
        (withCfg State.reset (fun c => { c with maxCatchup := some 1 })).cfg.wf = true) := by decide

/-- One second in two uneven parts at 500. -/
theorem test_witness_SchedulerCountsAreExact :
    Cfg.default.wf = true ∧ Cfg.default.maxCatchup = none ∧
      [29999, 1].sum = Cfg.default.timeUnit ∧ Cfg.default.instructionsPerSecond = 500 := by decide

end Sys2Proof.Tests
end

namespace Sys2Proof.Machine

/-! ### The two outcomes of a return and of a call (R140, R142) -/

theorem execRet_of_pop {s t : State} {a : Word} (h : s.pop = some (a, t)) :
    execRet s = .next (t.setPc a) := by
  simp [execRet, h]

theorem execRet_of_pop_none {s : State} (h : s.pop = none) :
    execRet s = .next (s.raiseFatal .stackUnderflow (encode .ret)) := by
  simp [execRet, h]

theorem execCall_of_push {nnn : Addr12} {s t : State} (h : s.push s.pc = some t) :
    execCall nnn s = .next (t.setPc (zext16 nnn)) := by
  simp [execCall, h]

theorem execCall_of_push_none {nnn : Addr12} {s : State} (h : s.push s.pc = none) :
    execCall nnn s = .next (s.raiseFatal .stackOverflow (encode (.call nnn))) := by
  simp [execCall, h]

/-! ### What no operation writes: the configuration (R6, R38) -/

namespace State

@[simp] theorem skipIf_cfg (s : State) (c : Bool) : (s.skipIf c).cfg = s.cfg := by
  rw [skipIf_eq]
  rfl

@[simp] theorem loadRegs_cfg (base n : Nat) (s : State) : (loadRegs base n s).cfg = s.cfg := by
  rw [loadRegs_frame]

@[simp] theorem setKey_cfg (s : State) (k : Byte) (b : Bool) : (s.setKey k b).cfg = s.cfg := by
  rw [setKey_frame]

@[simp] theorem resolveWait_cfg (s : State) (k : Byte) : (s.resolveWait k).cfg = s.cfg := by
  unfold resolveWait
  split <;> rfl

theorem push_cfg {s t : State} {a : Word} (h : s.push a = some t) : t.cfg = s.cfg := by
  obtain ⟨_, rfl⟩ := push_eq_some h
  rfl

theorem pop_cfg {s t : State} {a : Word} (h : s.pop = some (a, t)) : t.cfg = s.cfg := by
  obtain ⟨_, _, rfl⟩ := pop_eq_some h
  rfl

end State

theorem execRet_cfg {s t : State} (h : execRet s = .next t) : t.cfg = s.cfg := by
  cases hpop : s.pop with
  | none =>
    rw [execRet_of_pop_none hpop] at h
    cases h
    rfl
  | some r =>
    rw [execRet_of_pop hpop] at h
    cases h
    exact (State.setPc_cfg ..).trans (State.pop_cfg hpop)

theorem execCall_cfg {nnn : Addr12} {s t : State} (h : execCall nnn s = .next t) :
    t.cfg = s.cfg := by
  cases hpush : s.push s.pc with
  | none =>
    rw [execCall_of_push_none hpush] at h
    cases h
    rfl
  | some u =>
    rw [execCall_of_push hpush] at h
    cases h
    exact (State.setPc_cfg ..).trans (State.push_cfg hpush)

theorem execLdMemVx_cfg {x : RegIdx} {s t : State} (h : execLdMemVx x s = .next t) :
    t.cfg = s.cfg := by
  cases h
  split <;> exact State.storeRegs_cfg ..

theorem execLdVxMem_cfg {x : RegIdx} {s t : State} (h : execLdVxMem x s = .next t) :
    t.cfg = s.cfg := by
  cases h
  split <;> exact State.loadRegs_cfg ..

/-- No instruction writes the configuration. Apart from the skips, the stack instructions and the register
blocks, an instruction is a chain of updates of other fields. -/
theorem exec_cfg {i : Instr} {s t : State} (h : exec i s = .next t) : t.cfg = s.cfg := by
  cases i with
  | ret => exact execRet_cfg h
  | call nnn => exact execCall_cfg h
  | ldMemVx x => exact execLdMemVx_cfg h
  | ldVxMem x => exact execLdVxMem_cfg h
  | seImm | sneImm | seReg | sneReg | skp | sknp =>
    cases h
    exact State.skipIf_cfg ..
  | _ =>
    cases h
    rfl

theorem cpuStep_cfg {s t : State} (h : cpuStep s = .next t) : t.cfg = s.cfg := by
  obtain ⟨_, rfl⟩ | ⟨_, i, _, hexec⟩ | ⟨_, _, rfl⟩ := cpuStep_cases h
  · rfl
  · exact (exec_cfg hexec).trans (State.advancePc_cfg ..)
  · rfl

/-- No event of R248 writes the configuration. -/
theorem applyEvent_cfg {e : Event} {s t : State} (h : applyEvent e s = .next t) :
    t.cfg = s.cfg := by
  cases e with
  | cpuStep => exact cpuStep_cfg h
  | timerTick => cases h; unfold timerTick; split <;> rfl
  | keyDown k => cases h; unfold keyDown; split <;> simp
  | keyUp k => cases h; unfold keyUp; split <;> simp
  | pauseToggle => cases h; unfold pauseToggle; split <;> rfl
  | quit => cases h; unfold quit; split <;> rfl
  | present => cases h; unfold present; split <;> rfl

@[simp] theorem schedulerIteration_cfg (dt : Nat) (s : State) :
    (schedulerIteration dt s).cfg = s.cfg := by
  unfold schedulerIteration
  split <;> rfl

/-- Settles O18: each of the three things a step can do (`step_cases`) keeps the configuration. -/
theorem stepKeepsConfiguration : Obligations.StepKeepsConfiguration := by
  intro s t h
  obtain ⟨_, hstep⟩ | ⟨e, rest, _, hev⟩ | ⟨dt, rest, _, rfl⟩ := step_cases h
  · exact cpuStep_cfg hstep
  · exact (applyEvent_cfg hev).trans (State.setAgenda_cfg ..)
  · exact schedulerIteration_cfg ..

/-! ### The stack as the list of its entries (R12, R31) -/

namespace State

/-- The entries the stack holds, oldest first. -/
def entries (s : State) : List Word := s.stack.toList.take s.sp.val

@[simp] theorem entries_length (s : State) : s.entries.length = s.sp.val := by
  have := s.sp.isLt
  simp only [entries, List.length_take, Vector.length_toList]
  omega

@[simp] theorem setPc_entries (s : State) (a : Word) : (s.setPc a).entries = s.entries := rfl

theorem push_entries {s t : State} {a : Word} (h : s.push a = some t) :
    t.entries = s.entries ++ [a] := by
  obtain ⟨hlt, rfl⟩ := push_eq_some h
  simp [entries, List.take_add_one, hlt, List.take_set_of_le, Vector.toList_set]

theorem pop_entries {s t : State} {a : Word} (h : s.pop = some (a, t)) :
    s.entries = t.entries ++ [a] := by
  obtain ⟨hpos, rfl, rfl⟩ := pop_eq_some h
  have hlt : s.sp.val - 1 < s.stack.toList.length := by
    have := s.sp.isLt
    simp only [Vector.length_toList]
    omega
  have htake := List.take_append_getElem hlt
  rw [Nat.sub_add_cancel hpos] at htake
  simpa [entries] using htake.symm

theorem push_fault {s t : State} {a : Word} (h : s.push a = some t) : t.fault = s.fault := by
  obtain ⟨_, rfl⟩ := push_eq_some h
  rfl

end State

/-- 2NNN with room on the stack appends the pc it sees to the entries and is no fatal error (R142). -/
theorem exec_call_entries (nnn : Addr12) {s : State} (h : s.sp.val < 64) :
    ∃ t, exec (.call nnn) s = .next t ∧ t.fault = s.fault ∧ t.entries = s.entries ++ [s.pc] := by
  cases hpush : s.push s.pc with
  | none =>
    have := State.push_eq_none.mp hpush
    omega
  | some u =>
    refine ⟨u.setPc (zext16 nnn), execCall_of_push hpush, ?_, ?_⟩
    · simpa using State.push_fault hpush
    · simpa using State.push_entries hpush

/-- 00EE goes to the newest entry and leaves the entries before it (R140). -/
theorem exec_ret_entries {s : State} {ws : List Word} {a : Word} (h : s.entries = ws ++ [a]) :
    ∃ t, exec .ret s = .next t ∧ t.pc = a ∧ t.entries = ws := by
  cases hpop : s.pop with
  | none =>
    have hlen := congrArg List.length h
    simp [State.pop_eq_none.mp hpop] at hlen
  | some r =>
    obtain ⟨b, u⟩ := r
    obtain ⟨hws, hab⟩ := List.append_inj' ((State.pop_entries hpop).symm.trans h) rfl
    exact ⟨u.setPc b, execRet_of_pop hpop, List.singleton_inj.mp hab, hws⟩

/-- Calls that fit in 64 entries append their return addresses in the order of the calls. -/
theorem callSeq_entries (l : List (Word × Addr12)) {s : State} (h : s.sp.val + l.length ≤ 64) :
    ∃ t, callSeq l s = .next t ∧ t.fault = s.fault ∧ t.entries = s.entries ++ l.map Prod.fst := by
  induction l generalizing s with
  | nil => exact ⟨s, rfl, rfl, by simp⟩
  | cons c rest ih =>
    obtain ⟨p, nnn⟩ := c
    simp only [List.length_cons] at h
    obtain ⟨u, hcall, hfault, hentries⟩ := exec_call_entries nnn (s := s.setPc p) (by simp; omega)
    have hsp : u.sp.val = s.sp.val + 1 := by simpa using congrArg List.length hentries
    obtain ⟨t, hrest, htfault, htentries⟩ := ih (s := u) (by omega)
    refine ⟨t, ?_, htfault.trans hfault, ?_⟩
    · simpa [callSeq, hcall] using hrest
    · simp [htentries, hentries]

/-- Returns go to the newest entries, the newest first. -/
theorem retSeq_entries (ws : List Word) {vs : List Word} {s : State} (h : s.entries = vs ++ ws) :
    retSeq ws.length s = ws.reverse := by
  induction ws using List.reverseRecOn generalizing s with
  | nil => rfl
  | append_singleton ws a ih =>
    obtain ⟨t, hret, hpc, hentries⟩ := exec_ret_entries (h.trans (List.append_assoc ..).symm)
    simp [retSeq, hret, hpc, ih hentries]

/-- Settles O34: the calls append their return addresses to the entries, the returns take entries off the
same end. -/
theorem returnsReverseCalls : Obligations.ReturnsReverseCalls := by
  intro l s hfit hfault
  obtain ⟨t, hcalls, htfault, hentries⟩ := callSeq_entries l hfit
  refine ⟨t, hcalls, htfault.trans hfault, ?_, ?_⟩
  · simpa using congrArg List.length hentries
  · simpa using retSeq_entries (l.map Prod.fst) hentries

end Sys2Proof.Machine

namespace Sys2Proof.Machine

/-! ### What reset leaves (R43) -/

/-- Outside the font region an unlisted address reads as zero. -/
theorem Memory.resetByte_outside_font (font : Font) {a : Nat}
    (h : ¬(Config.fontStart ≤ a ∧ a < Config.fontEnd)) : Memory.resetByte font a = 0x00#8 :=
  dif_neg h

namespace State

@[simp] theorem reset_readV (r : RegIdx) : reset.readV r = 0x00#8 := by simp [readV, reset]

@[simp] theorem reset_keyPressed (k : Byte) : reset.keyPressed k = false := by
  unfold keyPressed
  split
  · simp [reset]
  · rfl

/-- Reset lists no byte, so memory reads as the reset content. -/
theorem reset_memRead {a : Nat} (h : a < Config.memSize) :
    reset.memRead a = Memory.resetByte reset.cfg.font a := by
  unfold memRead
  rw [Nat.mod_eq_of_lt h]
  rfl

end State

/-- Settles O1: the zeroed fields are constant vectors, and memory reads as the reset content. -/
theorem resetLeavesStatedValues : Obligations.ResetLeavesStatedValues := by
  refine ⟨State.reset_readV, rfl, rfl, fun j hj => ?_, Display.pixel_clear, State.reset_keyPressed,
    fun a ha hfont => ?_, fun d hd j hj => ?_⟩
  · simp [State.reset]
  · exact (State.reset_memRead ha).trans (Memory.resetByte_outside_font _ hfont)
  · have hlt : 0x050 + 5 * d + j < Config.memSize := by
      simp only [Config.memSize]
      omega
    exact (State.reset_memRead hlt).trans (Memory.resetByte_font _ hd hj)

/-! ### No operation reads the sound timer (R30) -/

namespace State

theorem skipIf_setSt (s : State) (c : Bool) (b : Byte) :
    (s.setSt b).skipIf c = (s.skipIf c).setSt b := by
  cases c <;> rfl

theorem push_setSt {s t : State} {a : Word} (b : Byte) (h : s.push a = some t) :
    (s.setSt b).push a = some (t.setSt b) := by
  obtain ⟨hlt, rfl⟩ := push_eq_some h
  exact dif_pos hlt

theorem pop_setSt {s t : State} {a : Word} (b : Byte) (h : s.pop = some (a, t)) :
    (s.setSt b).pop = some (a, t.setSt b) := by
  obtain ⟨hpos, rfl, rfl⟩ := pop_eq_some h
  exact dif_pos hpos

theorem storeRegs_setSt (base n : Nat) (s : State) (b : Byte) :
    storeRegs base n (s.setSt b) = (storeRegs base n s).setSt b := by
  induction n with
  | zero => rfl
  | succ n ih =>
    simp only [storeRegs, ih]
    rfl

theorem loadRegs_setSt (base n : Nat) (s : State) (b : Byte) :
    loadRegs base n (s.setSt b) = (loadRegs base n s).setSt b := by
  induction n with
  | zero => rfl
  | succ n ih =>
    simp only [loadRegs, ih]
    rfl

theorem drawRows_setSt (s : State) (b : Byte) (base x0 y0 n : Nat) (acc : Display × Bool) :
    (s.setSt b).drawRows base x0 y0 n acc = s.drawRows base x0 y0 n acc := by
  induction n with
  | zero => rfl
  | succ n ih => simp only [drawRows, ih, setSt_memRead]

end State

theorem execRet_setSt {s t : State} (b : Byte) (h : execRet s = .next t) :
    execRet (s.setSt b) = .next (t.setSt b) := by
  cases hpop : s.pop with
  | none =>
    rw [execRet_of_pop_none hpop] at h
    cases h
    have hsp := State.pop_eq_none.mp hpop
    exact execRet_of_pop_none (State.pop_eq_none.mpr hsp)
  | some r =>
    rw [execRet_of_pop hpop] at h
    cases h
    exact execRet_of_pop (State.pop_setSt b hpop)

theorem execCall_setSt {nnn : Addr12} {s t : State} (b : Byte) (h : execCall nnn s = .next t) :
    execCall nnn (s.setSt b) = .next (t.setSt b) := by
  cases hpush : s.push s.pc with
  | none =>
    rw [execCall_of_push_none hpush] at h
    cases h
    have hsp := State.push_eq_none.mp hpush
    exact execCall_of_push_none (State.push_eq_none.mpr hsp)
  | some u =>
    rw [execCall_of_push hpush] at h
    cases h
    exact execCall_of_push (State.push_setSt b hpush)

theorem execDrw_setSt {x y : RegIdx} {n : Nibble} {s t : State} (b : Byte)
    (h : execDrw x y n s = .next t) : execDrw x y n (s.setSt b) = .next (t.setSt b) := by
  cases h
  unfold execDrw
  rw [State.drawRows_setSt]
  rfl

theorem execLdMemVx_setSt {x : RegIdx} {s t : State} (b : Byte) (h : execLdMemVx x s = .next t) :
    execLdMemVx x (s.setSt b) = .next (t.setSt b) := by
  cases h
  unfold execLdMemVx
  rw [State.storeRegs_setSt, State.setSt_cfg]
  split <;> rfl

theorem execLdVxMem_setSt {x : RegIdx} {s t : State} (b : Byte) (h : execLdVxMem x s = .next t) :
    execLdVxMem x (s.setSt b) = .next (t.setSt b) := by
  cases h
  unfold execLdVxMem
  rw [State.loadRegs_setSt, State.setSt_cfg]
  split <;> rfl

/-- Every instruction but FX18 commutes with a write of ST. Apart from the skips, the stack instructions, DXYN
and the register blocks, an instruction is a chain of updates that name no ST. -/
theorem exec_setSt {i : Instr} {s t : State} (b : Byte) (hi : ∀ x, i ≠ .ldStVx x)
    (h : exec i s = .next t) : exec i (s.setSt b) = .next (t.setSt b) := by
  cases i with
  | ret => exact execRet_setSt b h
  | call nnn => exact execCall_setSt b h
  | drw x y n => exact execDrw_setSt b h
  | ldMemVx x => exact execLdMemVx_setSt b h
  | ldVxMem x => exact execLdVxMem_setSt b h
  | ldStVx x => exact absurd rfl (hi x)
  | seImm | sneImm | seReg | sneReg | skp | sknp =>
    cases h
    exact congrArg Host.Outcome.next (State.skipIf_setSt ..)
  | _ =>
    cases h
    rfl

/-- Settles O17: a write of ST commutes with every other instruction (`exec_setSt`), and FX18 overwrites it. -/
theorem noInstructionReadsSoundTimer : Obligations.NoInstructionReadsSoundTimer := by
  intro i s t b h _
  refine ⟨fun hi => exec_setSt b hi h, ?_⟩
  rintro ⟨x, rfl⟩
  cases h
  rfl

/-! ### Which instruction writes which piece of state (R21, R42) -/

/-- The stack is written by 00EE and 2NNN, which are also the instructions that can end in a fatal error. -/
def MayWriteStack (i : Instr) : Prop := i = .ret ∨ ∃ n, i = .call n

/-- The pc is written by returns, jumps, calls and skips. -/
def MayWritePc (i : Instr) : Prop :=
  i = .ret ∨ (∃ n, i = .jp n) ∨ (∃ n, i = .call n) ∨ (∃ n, i = .jpV0 n) ∨
    (∃ x nn, i = .seImm x nn) ∨ (∃ x nn, i = .sneImm x nn) ∨ (∃ x y, i = .seReg x y) ∨
    (∃ x y, i = .sneReg x y) ∨ (∃ x, i = .skp x) ∨ ∃ x, i = .sknp x

/-- What an instruction `i` can make of a state: one case for each group of fields written together, with the
instructions that write that group. -/
inductive Effect (i : Instr) (s : State) : State → Prop
  /-- A fatal error of 00EE or 2NNN. -/
  | fatal (k : FatalKind) (w : Word) (hi : MayWriteStack i) : Effect i s (s.raiseFatal k w)
  /-- 00EE and 2NNN: the stack and the pc. -/
  | stack (stk : Vector Word 64) (sp : Fin 65) (a : Word) (hi : MayWriteStack i) :
      Effect i s { s with stack := stk, sp := sp, pc := a }
  /-- Jumps and skips: the pc alone. -/
  | pc (a : Word) (hi : MayWritePc i) : Effect i s (s.setPc a)
  /-- Loads and arithmetic: registers of R21's table alone. -/
  | regs (v : Vector Byte 16)
      (hv : ∀ r : RegIdx, v[r.toNat] ≠ s.readV r → MayWriteReg i r) :
      Effect i s { s with v := v }
  /-- FX65 under its option: registers of R21's table and I. -/
  | regsIndex (x : RegIdx) (v : Vector Byte 16) (a : Word) (hi : i = .ldVxMem x)
      (hv : ∀ r : RegIdx, v[r.toNat] ≠ s.readV r → MayWriteReg i r)
      (hinc : s.cfg.loadRegistersIncrementIndex = true) : Effect i s { s with v := v, i := a }
  /-- CXNN: Vx and the draw counter. -/
  | random (x : RegIdx) (nn r : Byte) (hi : i = .rnd x nn) : Effect i s (s.rndWith r x nn)
  /-- FX33 and FX55: memory alone. -/
  | memory (m : Memory) (hi : (∃ x, i = .ldBVx x) ∨ ∃ x, i = .ldMemVx x) : Effect i s (s.setMem m)
  /-- FX55 under its option: memory and I. -/
  | memoryIndex (x : RegIdx) (m : Memory) (a : Word) (hi : i = .ldMemVx x)
      (hinc : s.cfg.setRegistersIncrementIndex = true) : Effect i s ((s.setMem m).setI a)
  /-- ANNN, FX1E and FX29: the index register alone. -/
  | index (a : Word) (hi : (∃ n, i = .ldI n) ∨ (∃ x, i = .addIVx x) ∨ ∃ x, i = .ldFVx x) :
      Effect i s (s.setI a)
  /-- 00E0: the display and the redraw request. -/
  | clear (d : Display) (b : Bool) (hi : i = .cls) : Effect i s ((s.setDisp d).setNeedsRedraw b)
  /-- DXYN: the display, VF and the redraw request. -/
  | draw (x y : RegIdx) (n : Nibble) (d : Display) (f : Byte) (b : Bool) (hi : i = .drw x y n) :
      Effect i s (((s.setDisp d).writeV flagReg f).setNeedsRedraw b)
  /-- FX15: DT alone. -/
  | delay (x : RegIdx) (b : Byte) (hi : i = .ldDtVx x) : Effect i s (s.setDt b)
  /-- FX18: ST alone. -/
  | sound (x : RegIdx) (b : Byte) (hi : i = .ldStVx x) : Effect i s (s.setSt b)
  /-- FX0A: the key wait. -/
  | wait (x : RegIdx) (hi : i = .ldVxK x) : Effect i s (s.startWait x)

@[simp] theorem State.setMem_readV (s : State) (m : Memory) (r : RegIdx) :
    (s.setMem m).readV r = s.readV r := rfl

namespace Effect

theorem of_frame {i : Instr} {s t : State} (ht : t = { s with v := t.v })
    (hv : ∀ r, t.readV r ≠ s.readV r → MayWriteReg i r) : Effect i s t :=
  ht ▸ .regs t.v hv

/-- A write of one register that R21's table lists. -/
theorem writeV {i : Instr} {x : RegIdx} (s : State) (b : Byte) (hx : MayWriteReg i x) :
    Effect i s (s.writeV x b) := by
  refine .of_frame rfl fun r hr => ?_
  by_cases h : r = x
  · exact h ▸ hx
  · simp [h] at hr

/-- A result and a flag, both listed in R21's table. -/
theorem writeResultAndFlag {i : Instr} {x : RegIdx} (s : State) (result flag : Byte)
    (hx : MayWriteReg i x) (hf : MayWriteReg i flagReg) :
    Effect i s (s.writeResultAndFlag x result flag) := by
  refine .of_frame (State.writeResultAndFlag_frame ..) fun r hr => ?_
  by_cases hflag : r = flagReg
  · exact hflag ▸ hf
  · by_cases h : r = x
    · exact h ▸ hx
    · simp [hflag, h] at hr

theorem skipIf {i : Instr} (s : State) (c : Bool) (hi : MayWritePc i) : Effect i s (s.skipIf c) :=
  State.skipIf_eq s c ▸ .pc _ hi

end Effect

theorem execRet_effect {s t : State} (h : execRet s = .next t) : Effect .ret s t := by
  cases hpop : s.pop with
  | none =>
    rw [execRet_of_pop_none hpop] at h
    cases h
    exact .fatal _ _ (.inl rfl)
  | some r =>
    obtain ⟨a, u⟩ := r
    rw [execRet_of_pop hpop] at h
    cases h
    obtain ⟨_, _, rfl⟩ := State.pop_eq_some hpop
    exact .stack _ _ _ (.inl rfl)

theorem execCall_effect {nnn : Addr12} {s t : State} (h : execCall nnn s = .next t) :
    Effect (.call nnn) s t := by
  cases hpush : s.push s.pc with
  | none =>
    rw [execCall_of_push_none hpush] at h
    cases h
    exact .fatal _ _ (.inr ⟨nnn, rfl⟩)
  | some u =>
    rw [execCall_of_push hpush] at h
    cases h
    obtain ⟨_, rfl⟩ := State.push_eq_some hpush
    exact .stack _ _ _ (.inr ⟨nnn, rfl⟩)

theorem execLdMemVx_effect {x : RegIdx} {s t : State} (h : execLdMemVx x s = .next t) :
    Effect (.ldMemVx x) s t := by
  cases h
  rw [State.storeRegs_frame]
  split
  next hinc => exact .memoryIndex x _ _ rfl hinc
  next => exact .memory _ (.inr ⟨x, rfl⟩)

/-- FX65 loads the registers up to Vx and no other. -/
theorem loadRegs_mayWriteReg (base : Nat) (x r : RegIdx) (s : State)
    (h : (State.loadRegs base (x.toNat + 1) s).readV r ≠ s.readV r) : MayWriteReg (.ldVxMem x) r := by
  have hx : x.toNat + 1 ≤ 16 := x.isLt
  have hle : r.toNat ≤ x.toNat := by
    by_contra hgt
    have : ¬r.toNat < x.toNat + 1 := by omega
    simp [State.loadRegs_readV base _ s hx, this] at h
  exact .inr (.inr (.inr (.inl ⟨x, rfl, hle⟩)))

theorem execLdVxMem_effect {x : RegIdx} {s t : State} (h : execLdVxMem x s = .next t) :
    Effect (.ldVxMem x) s t := by
  cases h
  have hv := fun r => loadRegs_mayWriteReg (s.effAddr 0) x r s
  rw [State.loadRegs_frame]
  split
  next hinc => exact .regsIndex x _ _ rfl hv hinc
  next => exact .regs _ hv

/-- Every instruction has the effect of its group (R21, R42). -/
theorem exec_effect {i : Instr} {s t : State} (h : exec i s = .next t) : Effect i s t := by
  cases i with
  | ret => exact execRet_effect h
  | call nnn => exact execCall_effect h
  | jp | jpV0 =>
    cases h
    exact .pc _ (by simp [MayWritePc])
  | seImm | sneImm | seReg | sneReg | skp | sknp =>
    cases h
    exact .skipIf _ _ (by simp [MayWritePc])
  | ldImm | addImm | ldReg | orReg | andReg | xorReg | ldVxDt =>
    cases h
    exact .writeV _ _ (by simp [MayWriteReg])
  | addReg | sub | shr | subn | shl =>
    cases h
    exact .writeResultAndFlag _ _ _ (by simp [MayWriteReg]) (by simp [MayWriteReg, flagReg])
  | ldI | addIVx | ldFVx =>
    cases h
    exact .index _ (by simp)
  | ldBVx x => cases h; exact .memory _ (.inl ⟨x, rfl⟩)
  | ldMemVx x => exact execLdMemVx_effect h
  | ldVxMem x => exact execLdVxMem_effect h
  | rnd x nn => cases h; exact .random x nn _ rfl
  | cls => cases h; exact .clear _ _ rfl
  | drw x y n => cases h; exact .draw x y n _ _ _ rfl
  | ldDtVx x => cases h; exact .delay x _ rfl
  | ldStVx x => cases h; exact .sound x _ rfl
  | ldVxK x => cases h; exact .wait x rfl

/-- Settles O16: clause by clause for each effect an instruction can have (`exec_effect`). -/
theorem onlyNamedInstructionsWrite : Obligations.OnlyNamedInstructionsWrite := by
  intro i s t h
  cases exec_effect h with
  | fatal k w hi => exact ⟨fun _ => hi, by simp⟩
  | stack stk sp a hi => obtain rfl | ⟨n, rfl⟩ := hi <;> simp [State.readV]
  | pc a hi => simpa [MayWritePc] using fun _ _ => hi
  | regs v hv => simpa [State.readV] using fun _ => hv
  | regsIndex x v a hi hv hinc => subst hi; simpa [State.readV, hinc] using fun _ => hv
  | random x nn r hi => simp [hi, State.rndWith, MayWriteReg]
  | memory m hi => simp [hi]
  | memoryIndex x m a hi hinc => simp [hi, hinc]
  | index a hi => obtain ⟨n, rfl⟩ | ⟨x, rfl⟩ | ⟨x, rfl⟩ := hi <;> simp
  | clear d b hi => simp [hi]
  | draw x y n d f b hi => simp [hi, MayWriteReg, flagReg]
  | delay x b hi => simp [hi]
  | sound x b hi => simp [hi]
  | wait x hi => simp [hi]

end Sys2Proof.Machine

namespace Sys2Proof

/-! ### The fields of a masked word (R92, R96) -/

section MaskedFields

variable (w v : Word)

@[simp] theorem fieldTop_and : fieldTop (w &&& v) = fieldTop w &&& fieldTop v :=
  BitVec.extractLsb'_and

@[simp] theorem fieldX_and : fieldX (w &&& v) = fieldX w &&& fieldX v :=
  BitVec.extractLsb'_and

@[simp] theorem fieldY_and : fieldY (w &&& v) = fieldY w &&& fieldY v :=
  BitVec.extractLsb'_and

@[simp] theorem fieldN_and : fieldN (w &&& v) = fieldN w &&& fieldN v :=
  BitVec.extractLsb'_and

@[simp] theorem fieldNN_and : fieldNN (w &&& v) = fieldNN w &&& fieldNN v :=
  BitVec.extractLsb'_and

@[simp] theorem fieldNNN_and : fieldNNN (w &&& v) = fieldNNN w &&& fieldNNN v :=
  BitVec.extractLsb'_and

end MaskedFields

theorem word_ext_NNN {w v : Word} :
    w = v ↔ fieldTop w = fieldTop v ∧ fieldNNN w = fieldNNN v := by
  refine ⟨fun h => h ▸ ⟨rfl, rfl⟩, fun ⟨htop, hnnn⟩ => ?_⟩
  rw [← formatNNN_fields w, htop, hnnn, formatNNN_fields]

theorem word_ext_XNN {w v : Word} :
    w = v ↔ fieldTop w = fieldTop v ∧ fieldX w = fieldX v ∧ fieldNN w = fieldNN v := by
  refine ⟨fun h => h ▸ ⟨rfl, rfl, rfl⟩, fun ⟨htop, hx, hnn⟩ => ?_⟩
  rw [← formatXNN_fields w, htop, hx, hnn, formatXNN_fields]

theorem word_ext_XYN {w v : Word} :
    w = v ↔ fieldTop w = fieldTop v ∧ fieldX w = fieldX v ∧ fieldY w = fieldY v ∧
      fieldN w = fieldN v := by
  refine ⟨fun h => h ▸ ⟨rfl, rfl, rfl, rfl⟩, fun ⟨htop, hx, hy, hn⟩ => ?_⟩
  rw [← formatXYN_fields w, htop, hx, hy, hn, formatXYN_fields]

/-! ### The fields of a literal word

The parentheses of `(rfl)` let `simp` prove the condition of a rewrite with these, not only rewrite by them. -/

section LiteralFields

variable (k : Nat)

@[simp] theorem fieldTop_ofNat : fieldTop (BitVec.ofNat 16 k) = BitVec.ofNat 4 ((k % 2 ^ 16) >>> 12) :=
  (rfl)

@[simp] theorem fieldX_ofNat : fieldX (BitVec.ofNat 16 k) = BitVec.ofNat 4 ((k % 2 ^ 16) >>> 8) :=
  (rfl)

@[simp] theorem fieldY_ofNat : fieldY (BitVec.ofNat 16 k) = BitVec.ofNat 4 ((k % 2 ^ 16) >>> 4) :=
  (rfl)

@[simp] theorem fieldN_ofNat : fieldN (BitVec.ofNat 16 k) = BitVec.ofNat 4 ((k % 2 ^ 16) >>> 0) :=
  (rfl)

@[simp] theorem fieldNN_ofNat : fieldNN (BitVec.ofNat 16 k) = BitVec.ofNat 8 ((k % 2 ^ 16) >>> 0) :=
  (rfl)

@[simp] theorem fieldNNN_ofNat :
    fieldNNN (BitVec.ofNat 16 k) = BitVec.ofNat 12 ((k % 2 ^ 16) >>> 0) :=
  (rfl)

end LiteralFields

/-! ### The four masks of the opcode map (R96) -/

section Masks

variable {w v : Word}

theorem and_topMask_eq (hv : fieldNNN v = 0x000#12) :
    w &&& 0xF000#16 = v ↔ (fieldTop w).toNat = (fieldTop v).toNat := by
  have htop : fieldTop w &&& 0xF#4 = fieldTop w := BitVec.and_allOnes
  simp [word_ext_NNN, htop, hv, BitVec.toNat_inj]

theorem and_topNMask_eq (hx : fieldX v = 0x0#4) (hy : fieldY v = 0x0#4) :
    w &&& 0xF00F#16 = v ↔ (fieldTop w).toNat = (fieldTop v).toNat ∧ fieldN w = fieldN v := by
  have htop : fieldTop w &&& 0xF#4 = fieldTop w := BitVec.and_allOnes
  have hn : fieldN w &&& 0xF#4 = fieldN w := BitVec.and_allOnes
  simp [word_ext_XYN, htop, hn, hx, hy, BitVec.toNat_inj]

theorem and_topNNMask_eq (hx : fieldX v = 0x0#4) :
    w &&& 0xF0FF#16 = v ↔ (fieldTop w).toNat = (fieldTop v).toNat ∧ fieldNN w = fieldNN v := by
  have htop : fieldTop w &&& 0xF#4 = fieldTop w := BitVec.and_allOnes
  have hnn : fieldNN w &&& 0xFF#8 = fieldNN w := BitVec.and_allOnes
  simp [word_ext_XNN, htop, hnn, hx, BitVec.toNat_inj]

theorem and_fullMask_eq :
    w &&& 0xFFFF#16 = v ↔ (fieldTop w).toNat = (fieldTop v).toNat ∧ fieldNNN w = fieldNNN v := by
  rw [show w &&& 0xFFFF#16 = w from BitVec.and_allOnes, word_ext_NNN, BitVec.toNat_inj]

end Masks

/-! ### Secondary dispatch as a search in a table of function codes (R95) -/

/-- The instruction of the first function code in the table that is `code`. -/
def dispatch {n : Nat} (w : Word) (code : BitVec n) :
    List (BitVec n × Instr) → Except DecodeError Instr
  | [] => .error (.unrecognizedOpcode w)
  | (c, i) :: table => if code = c then .ok i else dispatch w code table

theorem dispatch_eq_error {n : Nat} {w : Word} {code : BitVec n} (table : List (BitVec n × Instr)) :
    dispatch w code table = .error (.unrecognizedOpcode w) ↔ code ∉ table.map Prod.fst := by
  induction table with
  | nil => simp [dispatch]
  | cons row table ih =>
    by_cases h : code = row.1
    · simp [dispatch, h]
    · simp [dispatch, h, ih]

theorem dispatch_eq_ok {n : Nat} {w : Word} {code : BitVec n} {i : Instr}
    {table : List (BitVec n × Instr)} (hcodes : (table.map Prod.fst).Nodup) :
    dispatch w code table = .ok i ↔ ∃ row ∈ table, code = row.1 ∧ row.2 = i := by
  induction table with
  | nil => simp [dispatch]
  | cons row table ih =>
    obtain ⟨hfresh, hrest⟩ := List.nodup_cons.mp hcodes
    by_cases h : code = row.1
    · have hnot : (row.1, i) ∉ table := fun hmem => hfresh (List.mem_map.mpr ⟨_, hmem, rfl⟩)
      simp [dispatch, h, hnot]
    · simp [dispatch, h, ih hrest]

/-- The function codes of family 0 (R97 rows 1 and 2). -/
def table0 : List (Addr12 × Instr) := [(0x0E0#12, .cls), (0x0EE#12, .ret)]

theorem decodeFamily0_eq_dispatch (w : Word) :
    decodeFamily0 w = dispatch w (fieldNNN w) table0 := rfl

theorem decodeSkipReg_eq_dispatch (w : Word) (i : Instr) :
    decodeSkipReg w i = dispatch w (fieldN w) [(0x0#4, i)] := rfl

/-- The function codes of family 8 (R97 rows 11 to 19). -/
def table8 (x y : RegIdx) : List (Nibble × Instr) :=
  [(0x0#4, .ldReg x y), (0x1#4, .orReg x y), (0x2#4, .andReg x y), (0x3#4, .xorReg x y),
    (0x4#4, .addReg x y), (0x5#4, .sub x y), (0x6#4, .shr x y), (0x7#4, .subn x y),
    (0xE#4, .shl x y)]

theorem decodeFamily8_eq_dispatch (w : Word) :
    decodeFamily8 w = dispatch w (fieldN w) (table8 (fieldX w) (fieldY w)) := rfl

/-- The function codes of family E (R97 rows 24 and 25). -/
def tableE (x : RegIdx) : List (Byte × Instr) := [(0x9E#8, .skp x), (0xA1#8, .sknp x)]

theorem decodeFamilyE_eq_dispatch (w : Word) :
    decodeFamilyE w = dispatch w (fieldNN w) (tableE (fieldX w)) := rfl

/-- The function codes of family F (R97 rows 26 to 34). -/
def tableF (x : RegIdx) : List (Byte × Instr) :=
  [(0x07#8, .ldVxDt x), (0x15#8, .ldDtVx x), (0x18#8, .ldStVx x), (0x1E#8, .addIVx x),
    (0x0A#8, .ldVxK x), (0x29#8, .ldFVx x), (0x33#8, .ldBVx x), (0x55#8, .ldMemVx x),
    (0x65#8, .ldVxMem x)]

theorem decodeFamilyF_eq_dispatch (w : Word) :
    decodeFamilyF w = dispatch w (fieldNN w) (tableF (fieldX w)) := rfl

theorem decodeFamily0_ok {w : Word} {i : Instr} :
    decodeFamily0 w = .ok i ↔ ∃ row ∈ table0, fieldNNN w = row.1 ∧ row.2 = i := by
  rw [decodeFamily0_eq_dispatch, dispatch_eq_ok (by decide)]

theorem decodeSkipReg_ok {w : Word} {i j : Instr} :
    decodeSkipReg w j = .ok i ↔ fieldN w = 0x0#4 ∧ j = i := by
  simp [decodeSkipReg_eq_dispatch, dispatch_eq_ok]

theorem decodeFamily8_ok {w : Word} {i : Instr} : decodeFamily8 w = .ok i ↔
    ∃ row ∈ table8 (fieldX w) (fieldY w), fieldN w = row.1 ∧ row.2 = i := by
  rw [decodeFamily8_eq_dispatch, dispatch_eq_ok (by simp [table8])]

theorem decodeFamilyE_ok {w : Word} {i : Instr} : decodeFamilyE w = .ok i ↔
    ∃ row ∈ tableE (fieldX w), fieldNN w = row.1 ∧ row.2 = i := by
  rw [decodeFamilyE_eq_dispatch, dispatch_eq_ok (by simp [tableE])]

theorem decodeFamilyF_ok {w : Word} {i : Instr} : decodeFamilyF w = .ok i ↔
    ∃ row ∈ tableF (fieldX w), fieldNN w = row.1 ∧ row.2 = i := by
  rw [decodeFamilyF_eq_dispatch, dispatch_eq_ok (by simp [tableF])]

/-! ### The decoder is the opcode map (R96, R97) -/

/-- The 34 rows, gathered by the top nibble they ask for and then by function code. -/
theorem exists_selected_row_iff (w : Word) (i : Instr) :
    (∃ r ∈ opcodeRows, r.selects w = true ∧ r.build w = i) ↔
      ((fieldTop w).toNat = 0x0 ∧ ∃ row ∈ table0, fieldNNN w = row.1 ∧ row.2 = i) ∨
      ((fieldTop w).toNat = 0x1 ∧ .jp (fieldNNN w) = i) ∨
      ((fieldTop w).toNat = 0x2 ∧ .call (fieldNNN w) = i) ∨
      ((fieldTop w).toNat = 0x3 ∧ .seImm (fieldX w) (fieldNN w) = i) ∨
      ((fieldTop w).toNat = 0x4 ∧ .sneImm (fieldX w) (fieldNN w) = i) ∨
      ((fieldTop w).toNat = 0x5 ∧ fieldN w = 0x0#4 ∧ .seReg (fieldX w) (fieldY w) = i) ∨
      ((fieldTop w).toNat = 0x9 ∧ fieldN w = 0x0#4 ∧ .sneReg (fieldX w) (fieldY w) = i) ∨
      ((fieldTop w).toNat = 0x6 ∧ .ldImm (fieldX w) (fieldNN w) = i) ∨
      ((fieldTop w).toNat = 0x7 ∧ .addImm (fieldX w) (fieldNN w) = i) ∨
      ((fieldTop w).toNat = 0x8 ∧
        ∃ row ∈ table8 (fieldX w) (fieldY w), fieldN w = row.1 ∧ row.2 = i) ∨
      ((fieldTop w).toNat = 0xA ∧ .ldI (fieldNNN w) = i) ∨
      ((fieldTop w).toNat = 0xB ∧ .jpV0 (fieldNNN w) = i) ∨
      ((fieldTop w).toNat = 0xC ∧ .rnd (fieldX w) (fieldNN w) = i) ∨
      ((fieldTop w).toNat = 0xD ∧ .drw (fieldX w) (fieldY w) (fieldN w) = i) ∨
      ((fieldTop w).toNat = 0xE ∧ ∃ row ∈ tableE (fieldX w), fieldNN w = row.1 ∧ row.2 = i) ∨
      ((fieldTop w).toNat = 0xF ∧ ∃ row ∈ tableF (fieldX w), fieldNN w = row.1 ∧ row.2 = i) := by
  simp [opcodeRows, opcodeRowsA, opcodeRowsB, opcodeRowsC, OpcodeRow.selects, and_topMask_eq,
    and_topNMask_eq, and_topNNMask_eq, and_fullMask_eq, table0, table8, tableE, tableF,
    and_or_left, and_assoc, or_assoc]

theorem decodeWord_ok_iff (w : Word) (i : Instr) :
    decodeWord w = .ok i ↔ ∃ r ∈ opcodeRows, r.selects w = true ∧ r.build w = i := by
  rw [exists_selected_row_iff, decodeWord]
  have hlt : (fieldTop w).toNat < 16 := (fieldTop w).isLt
  generalize (fieldTop w).toNat = top at hlt ⊢
  interval_cases top <;>
    simp [decodeFamily0_ok, decodeSkipReg_ok, decodeFamily8_ok, decodeFamilyE_ok, decodeFamilyF_ok]

/-- What no row selects is unrecognized, since the decoder has no other error (`decodeWord_error`). -/
theorem decodeWord_unrecognized_iff (w : Word) :
    decodeWord w = .error (.unrecognizedOpcode w) ↔ ∀ r ∈ opcodeRows, r.selects w = false := by
  constructor
  · intro herr r hr
    by_contra hsel
    have hok := (decodeWord_ok_iff w (r.build w)).mpr ⟨r, hr, by simpa using hsel, rfl⟩
    simp [herr] at hok
  · intro hnone
    cases hd : decodeWord w with
    | error e => rw [decodeWord_error hd]
    | ok i =>
      obtain ⟨r, hr, hsel, _⟩ := (decodeWord_ok_iff w i).mp hd
      simp [hnone r hr] at hsel

/-- Two rows of the map disagree on a bit that both masks keep. -/
theorem opcodeRows_pairwise_disagree : opcodeRows.Pairwise fun r q =>
    r.value &&& q.mask ≠ q.value &&& r.mask := by
  decide

/-- Two rows that one word selects agree on every bit that both masks keep. -/
theorem OpcodeRow.agree_of_selects {r q : OpcodeRow} {w : Word} (hr : r.selects w = true)
    (hq : q.selects w = true) : r.value &&& q.mask = q.value &&& r.mask := by
  simp only [OpcodeRow.selects, beq_iff_eq] at hr hq
  rw [← hr, ← hq, BitVec.and_assoc, BitVec.and_assoc, BitVec.and_comm r.mask]

theorem opcodeRows_disjoint {w : Word} {j k : Nat} (hj : j < opcodeRows.length)
    (hk : k < opcodeRows.length) (hselj : opcodeRows[j].selects w = true)
    (hselk : opcodeRows[k].selects w = true) : j = k := by
  have hdis := List.pairwise_iff_getElem.mp opcodeRows_pairwise_disagree
  obtain h | h | h := Nat.lt_trichotomy j k
  · exact absurd (OpcodeRow.agree_of_selects hselj hselk) (hdis j k hj hk h)
  · exact h
  · exact absurd (OpcodeRow.agree_of_selects hselk hselj) (hdis k j hk hj h)

/-- Settles O9: the rows gathered by family are the decoder's dispatch, and any two rows disagree on a bit of
both masks. -/
theorem decoderFollowsOpcodeMap : Obligations.DecoderFollowsOpcodeMap :=
  ⟨decodeWord_ok_iff,
    fun _ j k hj hk => Fin.ext (opcodeRows_disjoint j.isLt k.isLt hj hk),
    decodeWord_unrecognized_iff⟩

/-! ### The unrecognized words (R98) -/

theorem fieldTop_toNat (w : Word) : (fieldTop w).toNat = w.toNat / 4096 := by
  have := w.isLt
  simp only [fieldTop, BitVec.extractLsb'_toNat, Nat.shiftRight_eq_div_pow]
  omega

theorem fieldN_toNat (w : Word) : (fieldN w).toNat = w.toNat % 16 := BitVec.extractLsb'_toNat ..

theorem fieldNN_toNat (w : Word) : (fieldNN w).toNat = w.toNat % 256 :=
  BitVec.extractLsb'_toNat ..

theorem fieldNNN_toNat (w : Word) : (fieldNNN w).toNat = w.toNat % 4096 :=
  BitVec.extractLsb'_toNat ..

theorem decodeFamily0_unrecognized {w : Word} :
    decodeFamily0 w = .error (.unrecognizedOpcode w) ↔
      w.toNat % 4096 ≠ 0x0E0 ∧ w.toNat % 4096 ≠ 0x0EE := by
  simp [decodeFamily0_eq_dispatch, dispatch_eq_error, table0, ← fieldNNN_toNat, BitVec.toNat_eq]

theorem decodeSkipReg_unrecognized {w : Word} {i : Instr} :
    decodeSkipReg w i = .error (.unrecognizedOpcode w) ↔ w.toNat % 16 ≠ 0 := by
  simp [decodeSkipReg_eq_dispatch, dispatch_eq_error, ← fieldN_toNat, BitVec.toNat_eq]

theorem decodeFamily8_unrecognized {w : Word} :
    decodeFamily8 w = .error (.unrecognizedOpcode w) ↔
      w.toNat % 16 ∈ [8, 9, 0xA, 0xB, 0xC, 0xD, 0xF] := by
  have hcodes : ∀ n : Nibble, n ∉ (table8 0x0#4 0x0#4).map Prod.fst ↔
      n.toNat ∈ [8, 9, 0xA, 0xB, 0xC, 0xD, 0xF] := by decide
  rw [decodeFamily8_eq_dispatch, dispatch_eq_error, ← fieldN_toNat]
  exact hcodes (fieldN w)

theorem decodeFamilyE_unrecognized {w : Word} :
    decodeFamilyE w = .error (.unrecognizedOpcode w) ↔ w.toNat % 256 ∉ [0x9E, 0xA1] := by
  simp [decodeFamilyE_eq_dispatch, dispatch_eq_error, tableE, ← fieldNN_toNat, BitVec.toNat_eq]

theorem decodeFamilyF_unrecognized {w : Word} :
    decodeFamilyF w = .error (.unrecognizedOpcode w) ↔
      w.toNat % 256 ∉ [0x07, 0x0A, 0x15, 0x18, 0x1E, 0x29, 0x33, 0x55, 0x65] := by
  simp [decodeFamilyF_eq_dispatch, dispatch_eq_error, tableF, ← fieldNN_toNat, BitVec.toNat_eq,
    and_left_comm]

/-- Settles O10: per top nibble, the codes missing from the family's table. -/
theorem unrecognizedWordsByFamily : Obligations.UnrecognizedWordsByFamily := by
  intro w
  rw [← fieldTop_toNat, decodeWord]
  have hlt : (fieldTop w).toNat < 16 := (fieldTop w).isLt
  generalize (fieldTop w).toNat = top at hlt ⊢
  interval_cases top <;>
    simp [decodeFamily0_unrecognized, decodeSkipReg_unrecognized, decodeFamily8_unrecognized,
      decodeFamilyE_unrecognized, decodeFamilyF_unrecognized]

end Sys2Proof

namespace Sys2Proof.Machine

/-! ### The gate of a CPU step (R121) -/

theorem State.cpuActive_eq_false_iff {s : State} :
    s.cpuActive = false ↔ s.running = false ∨ s.paused = true ∨ s.waiting = true := by
  simp only [State.cpuActive, Bool.and_eq_false_iff, Bool.not_eq_false', or_assoc]

/-- Settles O13: each of the three conditions closes the gate, and a gated CPU step is idle. -/
theorem cpuStepActsOnlyWhenRunning : Obligations.CpuStepActsOnlyWhenRunning :=
  fun _ hgate => cpuStep_idle (State.cpuActive_eq_false_iff.mpr hgate)

end Sys2Proof.Machine

namespace Sys2Proof.Machine

/-! ### What moves the pc alone (R26, R27, R148) -/

theorem setPc_writesOnlyPc (s : State) {a : Word} {p : Nat} (h : a.toNat = p) :
    WritesOnlyPc s (s.setPc a) p :=
  ⟨h, fun _ => rfl, fun _ => rfl, rfl⟩

/-- A skip on a Boolean test skips when, and only when, the condition the test decides holds. -/
theorem skipIf_skipsWhen (s : State) {c : Bool} {p : Prop} (hc : c = true ↔ p) :
    SkipsWhen s (s.skipIf c) p := by
  rw [State.skipIf_eq]
  constructor
  · intro hp
    rw [if_pos (hc.mpr hp)]
    exact setPc_writesOnlyPc s (by simp)
  · intro hp
    rw [if_neg (hp ∘ hc.mp)]
    exact setPc_writesOnlyPc s rfl

/-- Settles O30: each skip tests its condition with a Boolean comparison (`skipIf_skipsWhen`). -/
theorem compareSkipsMoveOnlyPc : Obligations.CompareSkipsMoveOnlyPc := by
  intro x y nn s
  exact ⟨⟨_, rfl, skipIf_skipsWhen s beq_iff_eq⟩, ⟨_, rfl, skipIf_skipsWhen s bne_iff_ne⟩,
    ⟨_, rfl, skipIf_skipsWhen s beq_iff_eq⟩, ⟨_, rfl, skipIf_skipsWhen s bne_iff_ne⟩⟩

/-! ### The targets of the jumps (R94, R147) -/

@[simp] theorem zext16_toNat (nnn : Addr12) : (zext16 nnn).toNat = nnn.toNat := by
  have := nnn.isLt
  simp only [zext16, BitVec.toNat_ofNat]
  omega

theorem jumpX_eq_ofNat (nnn : Addr12) : jumpX nnn = BitVec.ofNat 4 (nnn.toNat / 256) := by
  apply BitVec.eq_of_toNat_eq
  simp [jumpX, Nat.shiftRight_eq_div_pow]

theorem jumpNN_toNat (nnn : Addr12) : (jumpNN nnn).toNat = nnn.toNat % 256 :=
  BitVec.extractLsb'_toNat ..

/-- The sum of BNNN is below 65536, so nothing is lost in 16 bits. -/
theorem State.jumpTarget_toNat_of_not_jumpWithVx {s : State} (nnn : Addr12)
    (h : s.cfg.jumpWithVx = false) :
    (s.jumpTarget nnn).toNat = (s.readV 0x0#4).toNat + nnn.toNat := by
  have hv := (s.readV 0x0#4).isLt
  have hn := nnn.isLt
  simp only [jumpTarget, h, Bool.false_eq_true, if_false, BitVec.toNat_ofNat]
  omega

/-- The sum of the quirk form of BNNN is below 65536, so nothing is lost in 16 bits. -/
theorem State.jumpTarget_toNat_of_jumpWithVx {s : State} (nnn : Addr12)
    (h : s.cfg.jumpWithVx = true) :
    (s.jumpTarget nnn).toNat =
      (s.readV (BitVec.ofNat 4 (nnn.toNat / 256))).toNat + nnn.toNat % 256 := by
  have hv := (s.readV (BitVec.ofNat 4 (nnn.toNat / 256))).isLt
  simp only [jumpTarget, h, if_true, jumpX_eq_ofNat, jumpNN_toNat, BitVec.toNat_ofNat]
  omega

/-- Settles O31: each jump writes its target to the pc (`setPc_writesOnlyPc`); the maxima of BNNN are those of
the sums. -/
theorem jumpsMoveOnlyPc : Obligations.JumpsMoveOnlyPc := by
  intro nnn s
  refine ⟨⟨_, rfl, setPc_writesOnlyPc s (zext16_toNat nnn)⟩, fun h => ?_, fun h => ?_⟩
  · have htarget := State.jumpTarget_toNat_of_not_jumpWithVx nnn h
    have hv := (s.readV 0x0#4).isLt
    have hn := nnn.isLt
    refine ⟨_, rfl, setPc_writesOnlyPc s htarget, ?_⟩
    rw [State.setPc_pc]
    omega
  · have htarget := State.jumpTarget_toNat_of_jumpWithVx nnn h
    have hv := (s.readV (BitVec.ofNat 4 (nnn.toNat / 256))).isLt
    refine ⟨_, rfl, setPc_writesOnlyPc s htarget, ?_⟩
    rw [State.setPc_pc]
    omega

/-! ### Calls and returns (R140, R142, R242, R243) -/

/-- Taking a fatal error stops the machine and records the address of the instruction, 2 before the advanced
pc modulo 65536 (R244). -/
theorem raiseFatal_tookFatal (s : State) (k : FatalKind) (w : Word) :
    TookFatal (s.raiseFatal k w) ⟨k, w, BitVec.ofNat 16 ((s.pc.toNat + 65534) % 65536)⟩ :=
  ⟨rfl, rfl⟩

/-- Settles O32: a push that answers writes the entry at SP and SP (`State.push_eq_some`); it answers nothing
exactly when 64 entries are held. -/
theorem callPushesReturnAddress : Obligations.CallPushesReturnAddress := by
  intro nnn s
  constructor
  · intro hroom
    cases hpush : s.push s.pc with
    | none =>
      have := State.push_eq_none.mp hpush
      omega
    | some u =>
      obtain ⟨_, rfl⟩ := State.push_eq_some hpush
      exact ⟨_, execCall_of_push hpush, zext16_toNat nnn, rfl, Vector.getElem_set_self ..,
        fun j hj hne => Vector.getElem_set_ne hroom hj hne.symm, fun _ => rfl, fun _ => rfl, rfl⟩
  · intro hfull
    exact ⟨_, execCall_of_push_none (State.push_eq_none.mpr hfull), raiseFatal_tookFatal ..⟩

/-- Settles O33: a pop that answers gives the entry below SP and lowers SP (`State.pop_eq_some`); it answers
nothing exactly when no entry is held. -/
theorem returnPopsIntoPc : Obligations.ReturnPopsIntoPc := by
  intro s
  constructor
  · intro hheld
    cases hpop : s.pop with
    | none =>
      have := State.pop_eq_none.mp hpop
      omega
    | some r =>
      obtain ⟨a, u⟩ := r
      obtain ⟨_, rfl, rfl⟩ := State.pop_eq_some hpop
      exact ⟨_, execRet_of_pop hpop, Vector.getElem?_eq_getElem _, rfl, fun _ => rfl, fun _ => rfl, rfl⟩
  · intro hempty
    exact ⟨_, execRet_of_pop_none (State.pop_eq_none.mpr hempty), raiseFatal_tookFatal ..⟩

end Sys2Proof.Machine

namespace Sys2Proof.Machine

/-! ### What writes one register, or one register and VF (R21, R24, R168) -/

theorem State.readV_writeV_same (s : State) (x : RegIdx) (b : Byte) : (s.writeV x b).readV x = b := by
  simp

theorem writeV_writesOnlyReg (s : State) (x : RegIdx) (b : Byte) :
    WritesOnlyReg s (s.writeV x b) x b :=
  ⟨s.readV_writeV_same x b, fun _ hr => by simp [hr], fun _ => rfl, rfl⟩

/-- The same, with the value named by reading it back. -/
theorem writeV_writesOnlyReg_readV (s : State) (x : RegIdx) (b : Byte) :
    WritesOnlyReg s (s.writeV x b) x ((s.writeV x b).readV x) := by
  simpa using writeV_writesOnlyReg s x b

@[simp] theorem flagByte_true : flagByte true = 0x01#8 := rfl

@[simp] theorem flagByte_false : flagByte false = 0x00#8 := rfl

/-- The flag of a Boolean test is 1 when, and only when, the condition the test decides holds; it is written
last, so VF keeps it when x is F (R24, R168). -/
theorem writeResultAndFlag_writesRegAndFlag (s : State) (x : RegIdx) {result : Byte} {n : Nat} {c : Bool}
    {p : Prop} (hn : result.toNat = n) (hc : c = true ↔ p) :
    WritesRegAndFlag s (s.writeResultAndFlag x result (flagByte c)) x n p := by
  refine ⟨fun hp => ?_, fun hp => ?_, fun hx => ?_, fun r hrx hrf => ?_, fun _ => rfl, rfl⟩
  · simp [flagReg, hc.mpr hp]
  · simp [flagReg, Bool.eq_false_iff.mpr (hp ∘ hc.mp)]
  · simp [flagReg, hx, hn]
  · simp [flagReg, hrx, hrf]

/-! ### The results and flags as numbers (R166 to R174) -/

theorem sumResult_toNat (a b : Byte) : (sumResult a b).toNat = (a.toNat + b.toNat) % 256 := by
  simp [sumResult]

theorem sumCarry_iff (a b : Byte) : sumCarry a b = true ↔ a.toNat + b.toNat > 255 :=
  decide_eq_true_iff

theorem diffResult_toNat (a b : Byte) : (diffResult a b).toNat =
    if a.toNat ≥ b.toNat then a.toNat - b.toNat else a.toNat + 256 - b.toNat := by
  have ha := a.isLt
  have hb := b.isLt
  simp only [diffResult, BitVec.toNat_ofNat]
  split <;> omega

theorem diffFlag_iff (a b : Byte) : diffFlag a b = true ↔ a.toNat > b.toNat :=
  decide_eq_true_iff

theorem shrResult_toNat (src : Byte) : (shrResult src).toNat = src.toNat / 2 := by
  have := src.isLt
  simp only [shrResult, BitVec.toNat_ofNat]
  omega

theorem shrFlag_iff (src : Byte) : shrFlag src = true ↔ src.toNat % 2 = 1 := by
  simp [shrFlag, BitVec.getLsbD, Nat.testBit_zero]

theorem shlResult_toNat (src : Byte) : (shlResult src).toNat = src.toNat * 2 % 256 := by
  simp [shlResult]

/-- Bit 7 of a byte is its most significant bit. -/
theorem shlFlag_iff (src : Byte) : shlFlag src = true ↔ src.toNat ≥ 128 := by
  have hmsb : shlFlag src = src.msb := (BitVec.msb_eq_getLsbD_last src).symm
  rw [hmsb, BitVec.msb_eq_decide]
  exact decide_eq_true_iff

theorem State.shiftSource_toNat (s : State) (x y : RegIdx) : (s.shiftSource x y).toNat =
    if s.cfg.shiftVx = true then (s.readV x).toNat else (s.readV y).toNat :=
  apply_ite BitVec.toNat ..

/-! ### Register loads and arithmetic -/

/-- Settles O24: each load is one register write (`writeV_writesOnlyReg`). -/
theorem loadsWriteDestinationOnly : Obligations.LoadsWriteDestinationOnly := by
  intro x y nn s
  exact ⟨⟨_, rfl, writeV_writesOnlyReg ..⟩, ⟨_, rfl, writeV_writesOnlyReg ..⟩⟩

/-- Settles O25: the addition is one register write of the 8-bit sum, and no flag is written. -/
theorem addImmediateChangesNoFlag : Obligations.AddImmediateChangesNoFlag := by
  intro x nn s
  refine ⟨_, rfl, ?_, writeV_writesOnlyReg_readV ..⟩
  rw [State.readV_writeV_same, sumResult_toNat]

/-- Settles O26: each operation is one register write of the bitwise result, and no flag is written. -/
theorem logicWritesDestinationOnly : Obligations.LogicWritesDestinationOnly := by
  intro x y s
  refine ⟨⟨_, rfl, writeV_writesOnlyReg_readV .., fun k => ?_⟩,
    ⟨_, rfl, writeV_writesOnlyReg_readV .., fun k => ?_⟩,
    ⟨_, rfl, writeV_writesOnlyReg_readV .., fun k => ?_⟩⟩
  · rw [State.readV_writeV_same, BitVec.getLsbD_or]
  · rw [State.readV_writeV_same, BitVec.getLsbD_and]
  · rw [State.readV_writeV_same, BitVec.getLsbD_xor, Bool.bne_eq_xor]

/-- Settles O27: the result is the 8-bit sum and the flag its carry. -/
theorem addRegistersSetsCarry : Obligations.AddRegistersSetsCarry := by
  intro x y s
  exact ⟨_, rfl, writeResultAndFlag_writesRegAndFlag s x (sumResult_toNat ..) (sumCarry_iff ..)⟩

/-- Settles O28: the two subtractions differ in which operand is the minuend. -/
theorem subtractionsSetStrictFlag : Obligations.SubtractionsSetStrictFlag := by
  intro x y s
  exact ⟨⟨_, rfl, writeResultAndFlag_writesRegAndFlag s x (diffResult_toNat ..) (diffFlag_iff ..)⟩,
    ⟨_, rfl, writeResultAndFlag_writesRegAndFlag s x (diffResult_toNat ..) (diffFlag_iff ..)⟩⟩

/-- Settles O29: both shifts act on the configured source (`State.shiftSource_toNat`). -/
theorem shiftsMoveByOneBit : Obligations.ShiftsMoveByOneBit := by
  intro x y s src hsrc
  rw [← State.shiftSource_toNat] at hsrc
  subst hsrc
  exact ⟨⟨_, rfl, writeResultAndFlag_writesRegAndFlag s x (shrResult_toNat _) (shrFlag_iff _)⟩,
    ⟨_, rfl, writeResultAndFlag_writesRegAndFlag s x (shlResult_toNat _) (shlFlag_iff _)⟩⟩

end Sys2Proof.Machine

namespace Sys2Proof.Machine

/-! ### What writes the index register alone (R28, R190 to R192) -/

theorem setI_writesOnlyI (s : State) {a : Word} {n : Nat} (h : a.toNat = n) :
    WritesOnlyI s (s.setI a) n :=
  ⟨h, fun _ => rfl, fun _ => rfl, rfl⟩

@[simp] theorem State.indexPlus_toNat (s : State) (n : Nat) :
    (s.indexPlus n).toNat = (s.i.toNat + n) % 65536 := by
  simp [indexPlus]

/-- The highest font address is 0x050 + 5 * 255, so nothing is lost in 16 bits. -/
theorem fontAddr_toNat (v : Byte) : (fontAddr v).toNat = 0x050 + v.toNat * 5 := by
  have := v.isLt
  simp only [fontAddr, Config.fontStart, Config.glyphBytes, BitVec.toNat_ofNat]
  omega

/-- Settles O35: each load writes I (`setI_writesOnlyI`), and neither value exceeds 16 bits. -/
theorem indexLoadsWriteOnlyI : Obligations.IndexLoadsWriteOnlyI := by
  intro nnn x s
  exact ⟨⟨_, rfl, setI_writesOnlyI s (zext16_toNat nnn)⟩,
    ⟨_, rfl, setI_writesOnlyI s (fontAddr_toNat _)⟩⟩

/-- Settles O36: the addition writes I (`setI_writesOnlyI`), reduced to 16 bits (D3). -/
theorem addToIndexWraps : Obligations.AddToIndexWraps := by
  intro x s
  exact ⟨_, rfl, setI_writesOnlyI s (s.indexPlus_toNat _)⟩

/-! ### The effective addresses `I + k` (R70, R196) -/

namespace State

/-- Offsets below the size of memory give different masked addresses. -/
theorem effAddr_mod_inj (s : State) {j k : Nat} (hj : j < Config.memSize) (hk : k < Config.memSize) :
    s.effAddr j % Config.memSize = s.effAddr k % Config.memSize ↔ j = k := by
  simp only [effAddr, Config.memSize] at hj hk ⊢
  omega

/-- Reading at `I + k` after a write at `I + j`. -/
theorem memRead_memWrite_effAddr {s t : State} (ht : Memory.wf t.cfg.font t.mem = true) {j k : Nat}
    (hj : j < Config.memSize) (hk : k < Config.memSize) (b : Byte) :
    (t.memWrite (s.effAddr j) b).memRead (s.effAddr k) =
      if k = j then b else t.memRead (s.effAddr k) := by
  simp only [memRead_memWrite ht, effAddr_mod_inj s hk hj]

end State

/-! ### The decimal digits of a byte (R193) -/

/-- Digit `k` of the three decimal digits of a byte, hundreds first. -/
def decimalDigit (v : Byte) (k : Nat) : Byte := BitVec.ofNat 8 (v.toNat / 10 ^ (2 - k) % 10)

theorem decimalDigit_toNat (v : Byte) (k : Nat) :
    (decimalDigit v k).toNat = v.toNat / 10 ^ (2 - k) % 10 := by
  simp only [decimalDigit, BitVec.toNat_ofNat]
  omega

/-- A byte is below 1000, so its hundreds are one digit. -/
theorem digitHundreds_eq (v : Byte) : digitHundreds v = decimalDigit v 0 := by
  have := v.isLt
  have hdigit : v.toNat / 100 % 10 = v.toNat / 100 := by omega
  simp [digitHundreds, decimalDigit, hdigit]

theorem digitTens_eq (v : Byte) : digitTens v = decimalDigit v 1 := by
  simp [digitTens, decimalDigit]

theorem digitOnes_eq (v : Byte) : digitOnes v = decimalDigit v 2 := by
  simp [digitOnes, decimalDigit]

/-! ### FX33 -/

namespace State

/-- The digits of `v` stored from I upward. -/
def storeDigits (s : State) (v : Byte) : State :=
  ((s.memWrite (s.effAddr 0) (decimalDigit v 0)).memWrite (s.effAddr 1) (decimalDigit v 1)).memWrite
    (s.effAddr 2) (decimalDigit v 2)

theorem storeDigits_memRead_same {s : State} (hs : Memory.wf s.cfg.font s.mem = true) (v : Byte)
    {k : Nat} (hk : k < 3) : (s.storeDigits v).memRead (s.effAddr k) = decimalDigit v k := by
  have hs₁ := memWrite_wf hs (s.effAddr 0) (decimalDigit v 0)
  have hs₂ := memWrite_wf hs₁ (s.effAddr 1) (decimalDigit v 1)
  have hlt : k < Config.memSize := by simp only [Config.memSize]; omega
  rw [storeDigits, memRead_memWrite_effAddr hs₂ (by decide) hlt,
    memRead_memWrite_effAddr hs₁ (by decide) hlt, memRead_memWrite_effAddr hs (by decide) hlt]
  interval_cases k <;> rfl

theorem storeDigits_memRead_other (s : State) (v : Byte) {a : Nat}
    (h : ∀ k, k < 3 → a % Config.memSize ≠ s.effAddr k % Config.memSize) :
    (s.storeDigits v).memRead a = s.memRead a := by
  rw [storeDigits, memRead_memWrite_other _ _ (h 2 (by decide)),
    memRead_memWrite_other _ _ (h 1 (by decide)), memRead_memWrite_other _ _ (h 0 (by decide))]

end State

theorem exec_ldBVx (x : RegIdx) (s : State) :
    exec (.ldBVx x) s = .next (s.storeDigits (s.readV x)) := by
  rw [State.storeDigits, ← digitHundreds_eq, ← digitTens_eq, ← digitOnes_eq]
  rfl

/-- Settles O37: the three stored bytes are the three digits, and the stores touch memory only. -/
theorem decimalDigitsAreStored : Obligations.DecimalDigitsAreStored := by
  intro x s hs
  have hdigit {k : Nat} (hk : k < 3) :
      ((s.storeDigits (s.readV x)).memRead (s.effAddr k)).toNat =
        (s.readV x).toNat / 10 ^ (2 - k) % 10 := by
    rw [State.storeDigits_memRead_same hs _ hk, decimalDigit_toNat]
  refine ⟨_, exec_ldBVx x s, ?_, hdigit (k := 1) (by decide), ?_,
    fun a ha => s.storeDigits_memRead_other _ ha, fun _ => rfl, rfl⟩
  · have := (s.readV x).isLt
    have := hdigit (k := 0) (by decide)
    omega
  · simpa using hdigit (k := 2) (by decide)

/-! ### FX55 and FX65 (R194, R195, R197) -/

/-- A write of I under an option is a write of I: of its old value when the option is off. -/
theorem State.ite_setI (s : State) (c : Bool) (a : Word) :
    (if c then s.setI a else s) = s.setI (if c then a else s.i) := by
  cases c <;> rfl

/-- I after FX55 or FX65: advanced by x + 1 under the instruction's option `c`. -/
def State.indexAfterBlock (s : State) (c : Bool) (x : RegIdx) : Word :=
  if c then s.indexPlus (x.toNat + 1) else s.i

theorem State.indexAfterBlock_toNat_of_true (s : State) {c : Bool} (x : RegIdx) (h : c = true) :
    (s.indexAfterBlock c x).toNat = (s.i.toNat + x.toNat + 1) % 65536 := by
  rw [indexAfterBlock, if_pos h, indexPlus_toNat, Nat.add_assoc]

theorem State.indexAfterBlock_of_false (s : State) {c : Bool} (x : RegIdx) (h : c = false) :
    s.indexAfterBlock c x = s.i := by
  simp [indexAfterBlock, h]

theorem exec_ldMemVx (x : RegIdx) (s : State) :
    exec (.ldMemVx x) s = .next ((State.storeRegs (s.effAddr 0) (x.toNat + 1) s).setI
      (s.indexAfterBlock s.cfg.setRegistersIncrementIndex x)) := by
  simp only [exec, execLdMemVx, State.ite_setI]
  rw [State.storeRegs_frame]
  rfl

theorem exec_ldVxMem (x : RegIdx) (s : State) :
    exec (.ldVxMem x) s = .next ((State.loadRegs (s.effAddr 0) (x.toNat + 1) s).setI
      (s.indexAfterBlock s.cfg.loadRegistersIncrementIndex x)) := by
  simp only [exec, execLdVxMem, State.ite_setI]
  rw [State.loadRegs_frame]
  rfl

/-- Settles O38: byte k of the stored block is Vk, and storing the block touches memory only
(`State.storeRegs_frame`). -/
theorem registersAreStored : Obligations.RegistersAreStored := by
  intro x s hs
  have hx : x.toNat + 1 ≤ 16 := x.isLt
  refine ⟨_, exec_ldMemVx x s, fun k hk => ?_, fun a ha => ?_, s.indexAfterBlock_toNat_of_true x,
    s.indexAfterBlock_of_false x, State.storeRegs_readV _ _ s, ?_⟩
  · exact State.storeRegs_memRead_same (s.effAddr 0) _ hs hx (Nat.lt_succ_of_le hk)
  · exact State.storeRegs_memRead_other (s.effAddr 0) _ s a fun k hk => ha k (Nat.le_of_lt_succ hk)
  · rw [State.storeRegs_frame]
    rfl

/-- Settles O39: the registers up to Vx hold the bytes of the block (`State.loadRegs_readV`), and loading it
touches the register file only (`State.loadRegs_frame`). -/
theorem registersAreLoaded : Obligations.RegistersAreLoaded := by
  intro x s
  have hx : x.toNat + 1 ≤ 16 := x.isLt
  have hread := State.loadRegs_readV (s.effAddr 0) _ s hx
  refine ⟨_, exec_ldVxMem x s, fun r hr => ?_, fun r hr => ?_, s.indexAfterBlock_toNat_of_true x,
    s.indexAfterBlock_of_false x, State.loadRegs_memRead _ _ s, ?_⟩
  · exact (hread r).trans (if_pos (Nat.lt_succ_of_le hr))
  · exact (hread r).trans (if_neg (Nat.not_lt.mpr hr))
  · rw [State.loadRegs_frame]
    rfl

end Sys2Proof.Machine

namespace Sys2Proof.Machine

/-! ### 00E0 (R210) -/

/-- Settles O41: every pixel of the cleared display is off (`Display.pixel_clear`); only the display and
`needs_redraw` are written. -/
theorem clearTurnsEveryPixelOff : Obligations.ClearTurnsEveryPixelOff := by
  intro s
  exact ⟨_, rfl, Display.pixel_clear, rfl, fun _ => rfl, fun _ => rfl, rfl⟩

/-! ### The pixels under a sprite (R211, R212, R214) -/

theorem spriteBit_iff (b : Byte) (c : Nat) : spriteBit b c = true ↔ b.toNat / 2 ^ (7 - c) % 2 = 1 := by
  simp [spriteBit, BitVec.getLsbD, Nat.testBit_eq_decide_div_mod_eq]

theorem State.effAddr_zero_add (s : State) (k : Nat) : s.effAddr 0 + k = s.effAddr k := by
  simp [effAddr]

/-- A sprite pixel as the loops of DXYN test it: by the bit of the byte at `effAddr 0 + r`. -/
theorem spritePixelOn_iff_spriteBit (s : State) (x0 y0 n row col : Nat) :
    SpritePixelOn s x0 y0 n row col ↔
      row < 32 ∧ col < 64 ∧ y0 ≤ row ∧ row < y0 + n ∧ x0 ≤ col ∧ col < x0 + 8 ∧
        spriteBit (s.memRead (s.effAddr 0 + (row - y0))) (col - x0) = true := by
  rw [State.effAddr_zero_add, spriteBit_iff, SpritePixelOn]

/-- The pixel at sprite row `k` and sprite column `j`: it is a sprite pixel when it is on the screen and its
bit is 1. -/
theorem spritePixelOn_offset_iff (s : State) (x0 y0 n k j : Nat) :
    SpritePixelOn s x0 y0 n (y0 + k) (x0 + j) ↔
      k < n ∧ y0 + k < 32 ∧ j < 8 ∧ x0 + j < 64 ∧ spriteBit (s.memRead (s.effAddr 0 + k)) j = true := by
  simp only [spritePixelOn_iff_spriteBit, Nat.add_sub_cancel_left]
  constructor
  · rintro ⟨hrow, hcol, -, hk, -, hj, hbit⟩
    exact ⟨by omega, hrow, by omega, hcol, hbit⟩
  · rintro ⟨hk, hrow, hj, hcol, hbit⟩
    exact ⟨hrow, hcol, by omega, by omega, by omega, by omega, hbit⟩

namespace State

/-- The sprite of `n` rows at I drawn at (x0, y0) onto the display of a state, and its collision flag. -/
def drawnSprite (s : State) (x0 y0 n : Nat) : Display × Bool :=
  s.drawRows (s.effAddr 0) x0 y0 n (s.disp, false)

variable {s : State} {x0 y0 n row col : Nat}

theorem drawnSprite_pixel_of_on (h : SpritePixelOn s x0 y0 n row col) :
    (s.drawnSprite x0 y0 n).1.pixel row col = !s.disp.pixel row col := by
  rw [drawnSprite, drawRows_pixel, if_pos ((spritePixelOn_iff_spriteBit ..).mp h)]

theorem drawnSprite_pixel_of_not_on (h : ¬SpritePixelOn s x0 y0 n row col) :
    (s.drawnSprite x0 y0 n).1.pixel row col = s.disp.pixel row col := by
  rw [drawnSprite, drawRows_pixel, if_neg (h ∘ (spritePixelOn_iff_spriteBit ..).mpr)]

/-- The sprite collides exactly when one of its pixels is on. -/
theorem drawnSprite_hit_iff (s : State) (x0 y0 n : Nat) :
    (s.drawnSprite x0 y0 n).2 = true ↔
      ∃ row col, SpritePixelOn s x0 y0 n row col ∧ s.disp.pixel row col = true := by
  rw [drawnSprite, drawRows_hit]
  constructor
  · rintro (hfalse | ⟨k, j, hk, hrow, hj, hcol, hbit, hpix⟩)
    · cases hfalse
    · exact ⟨y0 + k, x0 + j, (spritePixelOn_offset_iff ..).mpr ⟨hk, hrow, hj, hcol, hbit⟩, hpix⟩
  · rintro ⟨row, col, hon, hpix⟩
    have ⟨_, _, hy, _, hx, _⟩ := hon
    obtain ⟨k, rfl⟩ := Nat.exists_eq_add_of_le hy
    obtain ⟨j, rfl⟩ := Nat.exists_eq_add_of_le hx
    obtain ⟨hk, hrow, hj, hcol, hbit⟩ := (spritePixelOn_offset_iff ..).mp hon
    exact .inr ⟨k, j, hk, hrow, hj, hcol, hbit, hpix⟩

theorem drawnSprite_miss_iff (s : State) (x0 y0 n : Nat) :
    (s.drawnSprite x0 y0 n).2 = false ↔
      ∀ row col, SpritePixelOn s x0 y0 n row col → s.disp.pixel row col = false := by
  rw [← Bool.not_eq_true, drawnSprite_hit_iff]
  simp

/-! ### DXYN as one operation on the state (R211, R215) -/

/-- What DXYN does from a start column and a start row: the sprite drawn, VF its collision, a redraw asked
for. -/
def drawSprite (s : State) (x0 y0 n : Nat) : State :=
  ((s.setDisp (s.drawnSprite x0 y0 n).1).writeV flagReg
    (flagByte (s.drawnSprite x0 y0 n).2)).setNeedsRedraw true

@[simp] theorem drawSprite_disp (s : State) (x0 y0 n : Nat) :
    (s.drawSprite x0 y0 n).disp = (s.drawnSprite x0 y0 n).1 := rfl

theorem drawSprite_readV_flagReg (s : State) (x0 y0 n : Nat) :
    (s.drawSprite x0 y0 n).readV flagReg = flagByte (s.drawnSprite x0 y0 n).2 := by
  simp [drawSprite]

theorem drawSprite_readV_of_ne {r : RegIdx} (hr : r ≠ flagReg) (s : State) (x0 y0 n : Nat) :
    (s.drawSprite x0 y0 n).readV r = s.readV r := by
  simp [drawSprite, hr]

/-- Drawing leaves memory and I alone, so the sprite's pixels stay where they are. -/
theorem spritePixelOn_drawSprite (s : State) (x0 y0 n x1 y1 m row col : Nat) :
    SpritePixelOn (s.drawSprite x0 y0 n) x1 y1 m row col ↔ SpritePixelOn s x1 y1 m row col :=
  Iff.rfl

/-- A register other than VF gives the same start column after drawing. -/
theorem drawSprite_drawX {x : RegIdx} (hx : x ≠ flagReg) (s : State) (x0 y0 n : Nat) :
    (s.drawSprite x0 y0 n).drawX x = s.drawX x := by
  rw [drawX, drawSprite_readV_of_ne hx, drawX]

/-- A register other than VF gives the same start row after drawing. -/
theorem drawSprite_drawY {y : RegIdx} (hy : y ≠ flagReg) (s : State) (x0 y0 n : Nat) :
    (s.drawSprite x0 y0 n).drawY y = s.drawY y := by
  rw [drawY, drawSprite_readV_of_ne hy]
  rfl

/-- Drawing is an XOR (R211): a pixel under the sprite is flipped twice, every other pixel never. -/
theorem drawSprite_drawSprite_disp (s : State) (x0 y0 n : Nat) :
    ((s.drawSprite x0 y0 n).drawSprite x0 y0 n).disp = s.disp := by
  apply Display.ext_of_pixel
  intro row col
  rw [drawSprite_disp]
  by_cases hon : SpritePixelOn s x0 y0 n row col
  · rw [drawnSprite_pixel_of_on ((s.spritePixelOn_drawSprite ..).mpr hon), drawSprite_disp,
      drawnSprite_pixel_of_on hon, Bool.not_not]
  · rw [drawnSprite_pixel_of_not_on (hon ∘ (s.spritePixelOn_drawSprite ..).mp), drawSprite_disp,
      drawnSprite_pixel_of_not_on hon]

end State

theorem exec_drw (x y : RegIdx) (n : Nibble) (s : State) :
    exec (.drw x y n) s = .next (s.drawSprite (s.drawX x) (s.drawY y) n.toNat) := rfl

/-- Settles O42: the sprite's pixels are the flipped ones, and VF is the collision
(`State.drawnSprite_hit_iff`). -/
theorem drawFlipsSpritePixels : Obligations.DrawFlipsSpritePixels := by
  rintro x y n s _ _ rfl rfl
  have hflag := s.drawSprite_readV_flagReg (s.drawX x) (s.drawY y) n.toNat
  refine ⟨_, exec_drw x y n s, fun _ _ => State.drawnSprite_pixel_of_on,
    fun _ _ => State.drawnSprite_pixel_of_not_on, fun hsome => ?_, fun hnone => ?_, rfl,
    fun _ hr => State.drawSprite_readV_of_ne hr .., fun _ => rfl, rfl⟩
  · exact hflag.trans (congrArg flagByte ((s.drawnSprite_hit_iff ..).mpr hsome))
  · exact hflag.trans (congrArg flagByte ((s.drawnSprite_miss_iff ..).mpr hnone))

/-- Settles O43: VF alone is written among the registers, so the second DXYN draws the same sprite at the same
place (`State.drawSprite_drawX`, `State.drawSprite_drawY`), and drawing is an XOR. -/
theorem drawingTwiceRestoresDisplay : Obligations.DrawingTwiceRestoresDisplay := by
  intro x y n s t u hx hy hst htu
  rw [exec_drw] at hst
  injection hst with hst
  subst hst
  rw [exec_drw, State.drawSprite_drawX hx, State.drawSprite_drawY hy] at htu
  injection htu with htu
  subst htu
  exact s.drawSprite_drawSprite_disp ..

end Sys2Proof.Machine

namespace Sys2Proof.Machine

/-! ### The keyboard, the timers and the random byte (45_keyboard_timers_random.md) -/

/-- A bit that the mask lacks is lacking in any byte under the mask (R220). -/
theorem getLsbD_and_of_mask_eq_false {r nn : Byte} {k : Nat} (h : nn.getLsbD k = false) :
    (r &&& nn).getLsbD k = false := by
  rw [BitVec.getLsbD_and, h, Bool.and_false]

/-- CXNN's Vx, whatever byte is drawn. -/
theorem State.rndWith_readV_same (s : State) (r : Byte) (x : RegIdx) (nn : Byte) :
    (s.rndWith r x nn).readV x = r &&& nn :=
  s.readV_writeV_same x _

/-- CXNN's other registers, whatever byte is drawn. -/
theorem State.rndWith_readV_of_ne (s : State) (r : Byte) {x q : RegIdx} (nn : Byte) (hq : q ≠ x) :
    (s.rndWith r x nn).readV q = s.readV q := by
  rw [State.rndWith, State.countDraw_readV, State.readV_writeV, if_neg hq]

/-- Settles O45: Vx is the draw under the mask (`State.rndWith_readV_same`), so the bits the mask lacks are 0. -/
theorem randomIsMasked : Obligations.RandomIsMasked := by
  intro x nn s
  have hx := s.rndWith_readV_same (Config.rand8 s.draws) x nn
  exact ⟨_, rfl, hx, fun _ hk => hx ▸ getLsbD_and_of_mask_eq_false hk,
    fun _ => s.rndWith_readV_of_ne _ nn, fun _ => rfl, rfl, rfl⟩

/-- A key is pressed when its index is below 16 and its bit is set (R13, D10). -/
theorem State.keyPressed_iff (s : State) (k : Byte) :
    s.keyPressed k = true ↔ ∃ h : k.toNat < 16, s.keys[k.toNat] = true := by
  unfold State.keyPressed
  by_cases h : k.toNat < 16
  · simp [h]
  · simp [h]

/-- Settles O46: both skips test the one key that the whole Vx names (`State.keyPressed_iff`), EXA1 with the
Boolean negation. -/
theorem keySkipsReadOneKey : Obligations.KeySkipsReadOneKey := by
  intro x s pressed hpressed
  have hkey : s.keyPressed (s.readV x) = true ↔ pressed := (s.keyPressed_iff _).trans hpressed.symm
  have hnot : (!s.keyPressed (s.readV x)) = true ↔ ¬pressed := by
    rw [← hkey, Bool.not_eq_true', Bool.not_eq_true]
  exact ⟨⟨_, rfl, skipIf_skipsWhen s hkey⟩, ⟨_, rfl, skipIf_skipsWhen s hnot⟩⟩

/-- Settles O47: FX07 is one register write (`writeV_writesOnlyReg`), FX15 and FX18 are the writes of the two
timers, which touch no register and no memory. -/
theorem timerInstructionsMoveOneByte : Obligations.TimerInstructionsMoveOneByte := by
  intro x s
  refine ⟨⟨_, rfl, writeV_writesOnlyReg s x s.dt⟩, ⟨s.setDt (s.readV x), rfl, ?_⟩,
    ⟨s.setSt (s.readV x), rfl, ?_⟩⟩
  · exact ⟨s.setDt_dt _, fun _ => rfl, fun _ => rfl, rfl⟩
  · exact ⟨s.setSt_st _, fun _ => rfl, fun _ => rfl, rfl⟩

/-- Settles O48: entering the wait writes `waiting` and `waitReg` alone. -/
theorem keyWaitIsEntered : Obligations.KeyWaitIsEntered := by
  intro x s
  exact ⟨s.startWait x, rfl, s.startWait_waiting x, s.startWait_waitReg x, fun _ => rfl, fun _ => rfl, rfl⟩

end Sys2Proof.Machine

namespace Sys2Proof

/-! ### The words of the two instructions that can fail (R142, R140) -/

/-- The word of a 2NNN is the one it was decoded from. -/
theorem encode_call_of_decodeWord {w : Word} {nnn : Addr12} (h : decodeWord w = .ok (.call nnn)) :
    encode (.call nnn) = w := by
  have hfields : (fieldTop w).toNat = 0x2 ∧ fieldNNN w = nnn := by
    simpa [table0, table8, tableE, tableF] using
      (exists_selected_row_iff w _).mp ((decodeWord_ok_iff w _).mp h)
  obtain ⟨htop, rfl⟩ := hfields
  have htop' : fieldTop w = 0x2#4 := BitVec.eq_of_toNat_eq htop
  have hw := formatNNN_fields w
  rwa [htop'] at hw

/-- The only word that decodes to 00EE is its own. -/
theorem encode_ret_of_decodeWord {w : Word} (h : decodeWord w = .ok .ret) : encode .ret = w := by
  have hfields : (fieldTop w).toNat = 0x0 ∧ fieldNNN w = 0x0EE#12 := by
    simpa [table0, table8, tableE, tableF] using
      (exists_selected_row_iff w _).mp ((decodeWord_ok_iff w _).mp h)
  obtain ⟨htop, hnnn⟩ := hfields
  have htop' : fieldTop w = 0x0#4 := BitVec.eq_of_toNat_eq htop
  have hw := formatNNN_fields w
  rwa [htop', hnnn] at hw

/-- A legal configuration counts time in a unit that is not 0 (log 7). -/
theorem Cfg.timeUnit_pos_of_wf {c : Cfg} (h : c.wf = true) : 0 < c.timeUnit := by
  simp only [Cfg.wf, Bool.and_eq_true, decide_eq_true_eq] at h
  obtain ⟨⟨_, hunit⟩, _⟩ := h
  exact hunit

end Sys2Proof

namespace Sys2Proof.Machine

/-! ### Taking a fatal error within a CPU step (R241 to R245) -/

theorem State.cpuActive_eq_true {s : State} (hrun : s.running = true) (hpause : s.paused = false)
    (hwait : s.waiting = false) : s.cpuActive = true := by
  simp [State.cpuActive, hrun, hpause, hwait]

/-- Fetch advances the pc by 2 and the record goes back by 2: the address is the pc before the step (R244). -/
theorem afterFetch_raiseFatal_tookFatal (s : State) (k : FatalKind) (w : Word) :
    TookFatal (s.afterFetch.raiseFatal k w) ⟨k, w, s.pc⟩ := by
  have haddr : BitVec.ofNat 16 ((s.afterFetch.pc.toNat + 65534) % 65536) = s.pc := by
    have := s.pc.isLt
    apply BitVec.eq_of_toNat_eq
    simp only [State.afterFetch, State.advancePc_pc, BitVec.toNat_ofNat]
    omega
  exact haddr ▸ raiseFatal_tookFatal ..

/-- Settles O19: each kind raises its error after fetch, so its record has the pc before the step
(`afterFetch_raiseFatal_tookFatal`); 2NNN and 00EE record the word they were decoded from. -/
theorem fatalErrorsAreRecorded : Obligations.FatalErrorsAreRecorded := by
  rintro s _ hrun hpause hwait rfl
  have hactive := State.cpuActive_eq_true hrun hpause hwait
  refine ⟨fun hd => ?_, fun nnn hd hfull => ?_, fun hd hempty => ?_⟩
  · exact ⟨_, cpuStep_error hactive hd, afterFetch_raiseFatal_tookFatal ..⟩
  · refine ⟨_, (cpuStep_ok hactive hd).trans (execCall_of_push_none (State.push_eq_none.mpr hfull)), ?_⟩
    rw [encode_call_of_decodeWord hd]
    exact afterFetch_raiseFatal_tookFatal ..
  · refine ⟨_, (cpuStep_ok hactive hd).trans (execRet_of_pop_none (State.pop_eq_none.mpr hempty)), ?_⟩
    rw [encode_ret_of_decodeWord hd]
    exact afterFetch_raiseFatal_tookFatal ..

/-! ### Key reports (R254, R255, R33) -/

namespace State

theorem setKey_above (s : State) {k : Byte} (b : Bool) (h : 15 < k.toNat) : s.setKey k b = s :=
  dif_neg (by omega)

theorem keyPressed_setKey_le (s : State) {k : Byte} (q : Byte) (b : Bool) (h : k.toNat ≤ 15) :
    (s.setKey k b).keyPressed q = if q = k then b else s.keyPressed q := by
  have hlt : k.toNat < 16 := by omega
  simp [keyPressed_setKey, hlt]

@[simp] theorem setKey_readV (s : State) (k : Byte) (b : Bool) (r : RegIdx) :
    (s.setKey k b).readV r = s.readV r := by
  rw [setKey_frame]
  rfl

@[simp] theorem setKey_running (s : State) (k : Byte) (b : Bool) :
    (s.setKey k b).running = s.running := by
  rw [setKey_frame]

@[simp] theorem setKey_paused (s : State) (k : Byte) (b : Bool) :
    (s.setKey k b).paused = s.paused := by
  rw [setKey_frame]

@[simp] theorem setKey_waiting (s : State) (k : Byte) (b : Bool) :
    (s.setKey k b).waiting = s.waiting := by
  rw [setKey_frame]

@[simp] theorem setKey_waitReg (s : State) (k : Byte) (b : Bool) :
    (s.setKey k b).waitReg = s.waitReg := by
  rw [setKey_frame]

theorem resolveWait_of_waiting {s : State} (k : Byte) (h : s.waiting = true) :
    s.resolveWait k = (s.writeV s.waitReg k).endWait :=
  if_pos h

theorem resolveWait_of_not_waiting {s : State} (k : Byte) (h : s.waiting = false) :
    s.resolveWait k = s :=
  if_neg (by simp [h])

@[simp] theorem resolveWait_waiting (s : State) (k : Byte) : (s.resolveWait k).waiting = false := by
  cases hwait : s.waiting with
  | true => rw [resolveWait_of_waiting k hwait, endWait_waiting]
  | false => rw [resolveWait_of_not_waiting k hwait, hwait]

/-- Resolving a wait touches the register file and `waiting` only. -/
theorem resolveWait_frame (s : State) (k : Byte) :
    s.resolveWait k =
      { s with v := (s.resolveWait k).v, waiting := (s.resolveWait k).waiting } := by
  unfold resolveWait
  split <;> rfl

@[simp] theorem resolveWait_keyPressed (s : State) (k q : Byte) :
    (s.resolveWait k).keyPressed q = s.keyPressed q := by
  rw [resolveWait_frame]
  rfl

end State

theorem keyDown_above (s : State) {k : Byte} (h : 15 < k.toNat) : keyDown k s = s := by
  have hlt : ¬k.toNat < 16 := by omega
  simp [keyDown, hlt]

theorem keyDown_of_running {s : State} {k : Byte} (hrun : s.running = true) (hk : k.toNat ≤ 15) :
    keyDown k s = (s.setKey k true).resolveWait k := by
  have hlt : k.toNat < 16 := by omega
  simp [keyDown, hrun, hlt]

theorem keyDown_of_not_running {s : State} (k : Byte) (hrun : s.running = false) :
    keyDown k s = s :=
  if_neg (by simp [hrun])

theorem keyUp_of_running {s : State} (k : Byte) (hrun : s.running = true) :
    keyUp k s = s.setKey k false :=
  if_pos hrun

theorem keyUp_of_not_running {s : State} (k : Byte) (hrun : s.running = false) : keyUp k s = s :=
  if_neg (by simp [hrun])

theorem keyUp_above (s : State) {k : Byte} (h : 15 < k.toNat) : keyUp k s = s := by
  cases hrun : s.running with
  | true => rw [keyUp_of_running k hrun, s.setKey_above false h]
  | false => exact keyUp_of_not_running k hrun

/-- A key press changes nothing but the registers, the key bits and `waiting`. -/
theorem keyDown_frame (k : Byte) (s : State) :
    keyDown k s = { s with
      v := (keyDown k s).v, keys := (keyDown k s).keys, waiting := (keyDown k s).waiting } := by
  unfold keyDown
  split
  · rw [State.resolveWait_frame, State.setKey_frame]
  · rfl

/-- Settles O49: a legal KeyDown sets the key bit and then resolves the wait, if there is one
(`keyDown_of_running`). -/
theorem keyDownEndsKeyWait : Obligations.KeyDownEndsKeyWait := by
  intro k s
  refine ⟨fun hk => congrArg Host.Outcome.next (keyDown_above s hk),
    fun hrun hk => ⟨keyDown k s, rfl, ?_⟩⟩
  have hframe := keyDown_frame k s
  rw [keyDown_of_running hrun hk] at hframe ⊢
  refine ⟨State.resolveWait_waiting .., fun q => ?_, fun hwait => ?_, fun hwait r => ?_, fun a => ?_,
    hframe⟩
  · rw [State.resolveWait_keyPressed, State.keyPressed_setKey_le s q true hk]
  · rw [State.resolveWait_of_waiting k (by simpa using hwait)]
    exact ⟨by simp, fun r hr => by simp [hr]⟩
  · rw [State.resolveWait_of_not_waiting k (by simpa using hwait), State.setKey_readV]
  · rw [hframe]
    rfl

/-- Settles O50: KeyUp is a key report and no more (`keyUp_of_running`). -/
theorem keyUpClearsOneKey : Obligations.KeyUpClearsOneKey := by
  intro k s
  refine ⟨fun hk => congrArg Host.Outcome.next (keyUp_above s hk),
    fun hstop => congrArg Host.Outcome.next (keyUp_of_not_running k hstop),
    fun hrun hk => ⟨s.setKey k false, congrArg Host.Outcome.next (keyUp_of_running k hrun), ?_⟩⟩
  exact ⟨fun q => s.keyPressed_setKey_le q false hk, s.setKey_waiting .., s.setKey_readV k false,
    s.setKey_frame ..⟩

/-! ### The timers (R253) and the beep (R265) -/

theorem countDown_toNat (t : Byte) : (countDown t).toNat = t.toNat - 1 := by
  have := t.isLt
  unfold countDown
  split
  · simp only [BitVec.toNat_ofNat]
    omega
  · omega

theorem timerTick_of_active {s : State} (hrun : s.running = true) (hpause : s.paused = false) :
    timerTick s = (s.setDt (countDown s.dt)).setSt (countDown s.st) :=
  if_pos (by simp [hrun, hpause])

theorem timerTick_of_frozen {s : State} (h : s.running = false ∨ s.paused = true) :
    timerTick s = s :=
  if_neg (by simpa [imp_iff_not_or] using h)

/-- The beep starts when ST leaves 0. -/
theorem audioSignal_eq_startBeep_iff (s t : State) :
    audioSignal s t = some .startBeep ↔ s.st.toNat = 0 ∧ t.st.toNat ≠ 0 := by
  unfold audioSignal State.beep
  by_cases hs : s.st.toNat = 0 <;> by_cases ht : t.st.toNat = 0 <;> simp [hs, ht]

/-- The beep stops when ST reaches 0. -/
theorem audioSignal_eq_stopBeep_iff (s t : State) :
    audioSignal s t = some .stopBeep ↔ s.st.toNat ≠ 0 ∧ t.st.toNat = 0 := by
  unfold audioSignal State.beep
  by_cases hs : s.st.toNat = 0 <;> by_cases ht : t.st.toNat = 0 <;> simp [hs, ht]

/-- FX18 is the only instruction that can leave ST with another value. -/
theorem exec_st {i : Instr} {s t : State} (h : exec i s = .next t) :
    (∃ x, i = .ldStVx x ∧ t.st = s.readV x) ∨ ((∀ x, i ≠ .ldStVx x) ∧ t.st = s.st) := by
  by_cases hi : ∃ x, i = .ldStVx x
  · obtain ⟨x, rfl⟩ := hi
    cases h
    exact .inl ⟨x, rfl, rfl⟩
  · refine .inr ⟨not_exists.mp hi, ?_⟩
    cases exec_effect h with
    | sound x b hx => exact absurd ⟨x, hx⟩ hi
    | _ => rfl

/-- Settles O56: an edge compares ST before and after. An instruction that leaves ST alone makes no edge
(`exec_st`); a tick only lowers ST, to 0 exactly from 1 (`countDown_toNat`). -/
theorem beepEdgesComeFromSoundTimer : Obligations.BeepEdgesComeFromSoundTimer := by
  constructor
  · intro i s t h _
    rw [audioSignal_eq_startBeep_iff, audioSignal_eq_stopBeep_iff]
    obtain ⟨x, rfl, hst⟩ | ⟨hi, hst⟩ := exec_st h
    · simp [hst]
    · simp [hst, hi]
  · intro s t h
    obtain rfl : timerTick s = t := Host.Outcome.next.inj h
    rw [ne_eq, audioSignal_eq_startBeep_iff, audioSignal_eq_stopBeep_iff]
    by_cases hfrozen : s.running = false ∨ s.paused = true
    · rw [timerTick_of_frozen hfrozen]
      obtain hstop | hpause := hfrozen
      · simp [hstop]
      · simp [hpause]
    · simp only [not_or, Bool.not_eq_false, Bool.not_eq_true] at hfrozen
      obtain ⟨hrun, hpause⟩ := hfrozen
      rw [timerTick_of_active hrun hpause, State.setSt_st, countDown_toNat]
      simp only [hrun, hpause, true_and]
      omega

/-! ### Pause and Quit (R256, R257) -/

theorem pauseToggle_of_running {s : State} (hrun : s.running = true) :
    pauseToggle s = s.setPaused (!s.paused) :=
  if_pos hrun

theorem pauseToggle_of_not_running {s : State} (hrun : s.running = false) : pauseToggle s = s :=
  if_neg (by simp [hrun])

/-- Stopping a machine that is not running leaves it as it is. -/
theorem quit_eq (s : State) : quit s = s.setRunning false := by
  unfold quit
  split
  case isTrue => rfl
  case isFalse hrun =>
    rw [Bool.not_eq_true] at hrun
    rw [← hrun]
    rfl

theorem pauseToggle_st (s : State) : (pauseToggle s).st = s.st := by
  unfold pauseToggle
  split <;> rfl

theorem present_of_not_running {s : State} (hrun : s.running = false) : present s = s :=
  if_neg (by simp [State.presents, hrun])

/-- No event changes a machine that is not running (R274, D25). -/
theorem applyEvent_of_not_running {s : State} (e : Event) (hrun : s.running = false) :
    applyEvent e s = .next s := by
  cases e with
  | cpuStep => exact cpuStep_idle (State.cpuActive_eq_false_iff.mpr (.inl hrun))
  | timerTick => exact congrArg Host.Outcome.next (timerTick_of_frozen (.inl hrun))
  | keyDown k => exact congrArg Host.Outcome.next (keyDown_of_not_running k hrun)
  | keyUp k => exact congrArg Host.Outcome.next (keyUp_of_not_running k hrun)
  | pauseToggle => exact congrArg Host.Outcome.next (pauseToggle_of_not_running hrun)
  | quit =>
    rw [applyEvent, quit_eq, ← hrun]
    rfl
  | present => exact congrArg Host.Outcome.next (present_of_not_running hrun)

theorem State.Inv.fault_eq_none {s : State} (h : s.Inv) (hrun : s.running = true) :
    s.fault = none := by
  by_contra hfault
  have hstop := h.faulted (Option.isSome_iff_ne_none.mpr hfault)
  simp [hrun] at hstop

/-- Settles O53: Quit clears `running` whatever the state (`quit_eq`), and a machine that is not running takes
no event (`applyEvent_of_not_running`). -/
theorem quitIsACleanStop : Obligations.QuitIsACleanStop := by
  intro s
  exact ⟨s.setRunning false, congrArg Host.Outcome.next (quit_eq s), rfl, rfl, rfl,
    fun e => applyEvent_of_not_running e rfl, fun hinv hrun => hinv.fault_eq_none hrun⟩

/-! ### The run states (R249) -/

theorem State.runState_ne_stopped {s : State} (hrun : s.running = true) : s.runState ≠ .stopped := by
  unfold State.runState
  rw [hrun, Bool.not_true, if_neg Bool.false_ne_true]
  split_ifs <;> simp

theorem State.runState_of_cpuActive {s : State} (h : s.cpuActive = true) : s.runState = .running := by
  simp only [State.cpuActive, Bool.and_eq_true, Bool.not_eq_true'] at h
  obtain ⟨⟨hrun, hpause⟩, hwait⟩ := h
  simp [State.runState, hrun, hpause, hwait]

/-- The run state is a function of the three flags. -/
theorem State.runState_congr {s t : State} (hrun : t.running = s.running)
    (hpause : t.paused = s.paused) (hwait : t.waiting = s.waiting) : t.runState = s.runState := by
  unfold State.runState
  rw [hrun, hpause, hwait]

@[simp] theorem timerTick_runState (s : State) : (timerTick s).runState = s.runState := by
  unfold timerTick
  split <;> rfl

@[simp] theorem keyUp_runState (k : Byte) (s : State) : (keyUp k s).runState = s.runState := by
  unfold keyUp
  split
  · exact State.runState_congr (s.setKey_running ..) (s.setKey_paused ..) (s.setKey_waiting ..)
  · rfl

@[simp] theorem present_runState (s : State) : (present s).runState = s.runState := by
  unfold present
  split <;> rfl

@[simp] theorem keyDown_running (k : Byte) (s : State) : (keyDown k s).running = s.running := by
  rw [keyDown_frame]

@[simp] theorem keyDown_paused (k : Byte) (s : State) : (keyDown k s).paused = s.paused := by
  rw [keyDown_frame]

theorem keyDown_waiting {s : State} (k : Byte) (h : s.waiting = false) :
    (keyDown k s).waiting = false := by
  unfold keyDown
  split
  · exact State.resolveWait_waiting ..
  · exact h

/-- A key press can end a wait and sets no flag, so it leaves the state WaitingForKey only. -/
theorem keyDown_runState {k : Byte} {s : State} (h : (keyDown k s).runState ≠ s.runState) :
    s.runState = .waitingForKey := by
  cases hrun : s.running with
  | false => simp [keyDown_of_not_running k hrun] at h
  | true =>
    cases hpause : s.paused with
    | true => simp [State.runState, hrun, hpause] at h
    | false =>
      cases hwait : s.waiting with
      | true => simp [State.runState, hrun, hpause, hwait]
      | false =>
        have hwait' := (keyDown_waiting k hwait).trans hwait.symm
        exact absurd (State.runState_congr (keyDown_running k s) (keyDown_paused k s) hwait') h

/-- A CPU step that is not idle starts in the state Running. -/
theorem cpuStep_runState {s t : State} (hstep : cpuStep s = .next t) (h : t.runState ≠ s.runState) :
    s.runState = .running := by
  apply State.runState_of_cpuActive
  by_contra hidle
  rw [cpuStep_idle (Bool.eq_false_iff.mpr hidle)] at hstep
  cases hstep
  exact h rfl

/-- An event that changes the run state finds the machine running. -/
theorem running_of_applyEvent_runState {e : Event} {s t : State} (hev : applyEvent e s = .next t)
    (h : t.runState ≠ s.runState) : s.running = true := by
  by_contra hstop
  rw [applyEvent_of_not_running e (Bool.eq_false_iff.mpr hstop)] at hev
  cases hev
  exact h rfl

/-- Settles O55: a machine that is not running takes no event; a tick, a KeyUp and a Present keep the run
state; a CPU step leaves only Running (`cpuStep_runState`) and a KeyDown only WaitingForKey
(`keyDown_runState`). -/
theorem runStateIsLeftByNamedEvents : Obligations.RunStateIsLeftByNamedEvents := by
  intro s t e hev hne
  have hstopped := State.runState_ne_stopped (running_of_applyEvent_runState hev hne)
  cases e with
  | cpuStep =>
    have hs := cpuStep_runState hev hne
    simp [hs]
  | keyDown k =>
    cases hev
    have hs := keyDown_runState hne
    simp [hs]
  | pauseToggle => simp [hstopped]
  | quit => simp [hstopped]
  | timerTick => cases hev; exact absurd (timerTick_runState s) hne
  | keyUp k => cases hev; exact absurd (keyUp_runState k s) hne
  | present => cases hev; exact absurd (present_runState s) hne

/-! ### The scheduler (R258, R259) -/

theorem schedulerIteration_of_active {s : State} (dt : Nat) (hrun : s.running = true)
    (hpause : s.paused = false) :
    schedulerIteration dt s =
      (s.setAccumulators (drain s.cfg s.cpuAcc s.timerAcc dt).cpuAcc
        (drain s.cfg s.cpuAcc s.timerAcc dt).timerAcc).setAgenda
        ((drain s.cfg s.cpuAcc s.timerAcc dt).inputs ++ .event .present :: s.agenda) :=
  if_pos (by simp [hrun, hpause])

theorem schedulerIteration_of_frozen {s : State} (dt : Nat) (h : s.running = false ∨ s.paused = true) :
    schedulerIteration dt s = s.setAgenda (.event .present :: s.agenda) :=
  if_neg (by simpa [imp_iff_not_or] using h)

/-- What is taken from an accumulator was in it. -/
theorem drainCount_mul_le (bound : Option Nat) (acc cost : Nat) :
    drainCount bound acc cost * cost ≤ acc := by
  cases bound with
  | none => exact Nat.div_mul_le_self acc cost
  | some m => exact (Nat.mul_le_mul_right cost (Nat.min_le_right ..)).trans (Nat.div_mul_le_self acc cost)

/-- Without a bound the remainder of the division stays. -/
theorem sub_drainCount_none (acc cost : Nat) : acc - drainCount none acc cost * cost = acc % cost :=
  Nat.mod_eq_sub_div_mul.symm

/-- Under a bound, less than one cost stays unless the bound cut. -/
theorem drainCount_some_exhausts (m acc : Nat) {cost : Nat} (hcost : 0 < cost) :
    acc - drainCount (some m) acc cost * cost < cost ∨ drainCount (some m) acc cost = m := by
  obtain hle | hle := Nat.le_total m (acc / cost)
  · exact .inr (Nat.min_eq_left hle)
  · refine .inl ?_
    have hcount : drainCount (some m) acc cost = drainCount none acc cost := Nat.min_eq_right hle
    rw [hcount, sub_drainCount_none]
    exact Nat.mod_lt acc hcost

/-- Without a bound, a drain divides each accumulator by the cost. -/
theorem drain_of_unbounded {c : Cfg} (cpu timer dt : Nat) (h : c.maxCatchup = none) :
    drain c cpu timer dt =
      { steps := (cpu + dt * c.instructionsPerSecond) / c.timeUnit
        ticks := (timer + dt * 60) / c.timeUnit
        cpuAcc := (cpu + dt * c.instructionsPerSecond) % c.timeUnit
        timerAcc := (timer + dt * 60) % c.timeUnit } := by
  simp only [drain, h, sub_drainCount_none]
  rfl

/-- Under a bound, a drain issues no more than the bound, and less only when less than one cost is left. -/
theorem drain_of_bounded {c : Cfg} {m : Nat} (cpu timer dt : Nat) (hunit : 0 < c.timeUnit)
    (h : c.maxCatchup = some m) :
    (drain c cpu timer dt).steps ≤ m ∧ (drain c cpu timer dt).ticks ≤ m ∧
      ((drain c cpu timer dt).cpuAcc < c.timeUnit ∨ (drain c cpu timer dt).steps = m) ∧
      ((drain c cpu timer dt).timerAcc < c.timeUnit ∨ (drain c cpu timer dt).ticks = m) := by
  simp only [drain, h]
  exact ⟨Nat.min_le_left .., Nat.min_le_left .., drainCount_some_exhausts m _ hunit,
    drainCount_some_exhausts m _ hunit⟩

/-- What a drain issues and leaves is what was there and came in. -/
theorem drain_conserves (c : Cfg) (cpu timer dt : Nat) :
    (drain c cpu timer dt).cpuAcc + (drain c cpu timer dt).steps * c.timeUnit =
        cpu + dt * c.instructionsPerSecond ∧
      (drain c cpu timer dt).timerAcc + (drain c cpu timer dt).ticks * c.timeUnit =
        timer + dt * 60 :=
  ⟨Nat.sub_add_cancel (drainCount_mul_le ..), Nat.sub_add_cancel (drainCount_mul_le ..)⟩

theorem step_of_iterate {s : State} {dt : Nat} {rest : List Input} (h : s.agenda = .iterate dt :: rest) :
    step s = .next (schedulerIteration dt (s.setAgenda rest)) := by
  unfold step takeInput
  rw [h]
  rfl

/-- Settles O57: an iteration stores what `drain` leaves and puts what it issues before the inputs to come;
the clauses are those of the drain, unbounded (`drain_of_unbounded`) and bounded (`drain_of_bounded`). -/
theorem iterationDrainsAccumulators : Obligations.IterationDrainsAccumulators := by
  intro s dt rest hagenda hwf
  have hunit := Cfg.timeUnit_pos_of_wf hwf
  rw [step_of_iterate hagenda]
  constructor
  · intro hrun hpause
    obtain ⟨hcpu, htimer⟩ := drain_conserves s.cfg s.cpuAcc s.timerAcc dt
    refine ⟨_, (drain s.cfg s.cpuAcc s.timerAcc dt).steps, (drain s.cfg s.cpuAcc s.timerAcc dt).ticks,
      congrArg Host.Outcome.next (schedulerIteration_of_active (s := s.setAgenda rest) dt hrun hpause),
      rfl, hcpu, htimer, fun hbound => ?_, fun m => drain_of_bounded _ _ dt hunit, rfl⟩
    simp only [State.setAgenda_cpuAcc, State.setAgenda_timerAcc, State.setAccumulators_cpuAcc,
      State.setAccumulators_timerAcc, State.setAgenda_cfg, drain_of_unbounded _ _ dt hbound]
    exact ⟨Nat.mod_lt _ hunit, Nat.mod_lt _ hunit⟩
  · exact fun h =>
      congrArg Host.Outcome.next (schedulerIteration_of_frozen (s := s.setAgenda rest) dt h)

/-- Dividing in two parts, with the first remainder carried over, loses nothing. -/
theorem div_add_mod_add_div (a b : Nat) {u : Nat} (hu : 0 < u) :
    a / u + (a % u + b) / u = (a + b) / u := by
  rw [← Nat.mul_add_div hu, ← Nat.add_assoc, Nat.div_add_mod]

/-- Without a bound, what an iteration leaves undrained is counted by a later one. -/
theorem issuedOver_eq {c : Cfg} (hunit : 0 < c.timeUnit) (hbound : c.maxCatchup = none)
    (dts : List Nat) {cpu timer : Nat} (hcpu : cpu < c.timeUnit) (htimer : timer < c.timeUnit) :
    issuedOver c cpu timer dts =
      ((cpu + dts.sum * c.instructionsPerSecond) / c.timeUnit,
        (timer + dts.sum * 60) / c.timeUnit) := by
  induction dts generalizing cpu timer with
  | nil => simp [issuedOver, Nat.div_eq_of_lt, hcpu, htimer]
  | cons dt rest ih =>
    rw [issuedOver, drain_of_unbounded _ _ _ hbound, ih (Nat.mod_lt _ hunit) (Nat.mod_lt _ hunit)]
    simp only [div_add_mod_add_div _ _ hunit, List.sum_cons, Nat.add_mul, Nat.add_assoc]

/-- Settles O58: from empty accumulators nothing is carried in (`issuedOver_eq`). -/
theorem schedulerCountsAreExact : Obligations.SchedulerCountsAreExact := by
  intro c dts hwf hbound
  have hunit := Cfg.timeUnit_pos_of_wf hwf
  have hcounts := issuedOver_eq hunit hbound dts hunit hunit
  rw [Nat.zero_add, Nat.zero_add] at hcounts
  refine ⟨hcounts, fun hsecond hrate => ?_⟩
  rw [hcounts, hsecond, hrate, Nat.mul_div_cancel_left _ hunit, Nat.mul_div_cancel_left _ hunit]

/-! ### Pausing freezes the core (R256) -/

/-- Settles O52: the beep level is a function of ST, which PauseToggle does not write; the gates of CpuStep,
TimerTick and the scheduler are closed while paused. -/
theorem pauseFreezesTheCore : Obligations.PauseFreezesTheCore := by
  intro s
  refine ⟨fun hstop => congrArg Host.Outcome.next (pauseToggle_of_not_running hstop),
    fun hrun => congrArg Host.Outcome.next (pauseToggle_of_running hrun),
    fun hpause => ⟨?_, ?_, fun dt => ?_⟩, fun t h => ?_⟩
  · exact cpuStep_idle (State.cpuActive_eq_false_iff.mpr (.inr (.inl hpause)))
  · exact congrArg Host.Outcome.next (timerTick_of_frozen (.inr hpause))
  · rw [schedulerIteration_of_frozen dt (.inr hpause)]
    exact ⟨rfl, rfl⟩
  · cases h
    rw [State.beep, pauseToggle_st, State.beep]

end Sys2Proof.Machine

namespace Sys2Proof.Machine

/-! ### What construction leaves (R291) -/

namespace State

theorem construct_of_fits (cfg : Cfg) {rom : List Byte} (h : rom.length ≤ Config.romMax) :
    construct cfg rom =
      .next (writeBytes { reset with cfg := cfg } Config.progStart rom) :=
  if_pos (decide_eq_true h)

theorem construct_of_too_long (cfg : Cfg) {rom : List Byte} (h : Config.romMax < rom.length) :
    construct cfg rom = .refused .romTooLong :=
  if_neg fun hwf => Nat.not_le_of_lt h (of_decide_eq_true hwf)

/-- A machine whose memory lists no byte reads as the reset content of its own font. -/
theorem memRead_of_mem_nil {s : State} (hs : s.mem = []) {a : Nat} (ha : a < Config.memSize) :
    s.memRead a = Memory.resetByte s.cfg.font a := by
  unfold memRead
  rw [Nat.mod_eq_of_lt ha, hs]
  rfl

/-- The longest accepted ROM ends below the end of memory. -/
theorem romEnd_le_memSize {n : Nat} (h : n ≤ Config.romMax) :
    Config.progStart + n ≤ Config.memSize := by
  simp only [Config.romMax, Config.progStart, Config.memSize] at *
  omega

/-- Outside the ROM a constructed machine reads as the reset content of its configuration's font. -/
theorem constructed_memRead_outside_rom (cfg : Cfg) {rom : List Byte}
    (hrom : rom.length ≤ Config.romMax) {a : Nat} (ha : a < Config.memSize)
    (h : a < Config.progStart ∨ Config.progStart + rom.length ≤ a) :
    (writeBytes { reset with cfg := cfg } Config.progStart rom).memRead a =
      Memory.resetByte cfg.font a :=
  (writeBytes_memRead_other rom _ _ a (romEnd_le_memSize hrom) ha h).trans
    (memRead_of_mem_nil rfl ha)

end State

/-- Settles O3: loading the ROM is a block write from 0x200 over the reset content, so its bytes read back
(`writeBytes_memRead_same`), and the font, which ends below 0x200, and the zeros stay as they were. -/
theorem constructionLoadsFontAndRom : Obligations.ConstructionLoadsFontAndRom := by
  intro cfg rom
  refine ⟨fun hrom => ⟨_, State.construct_of_fits cfg hrom, State.writeBytes_frame _ _ _,
    fun j hj => ?rom, fun d hd j hj => ?font, fun a ha hfont hout => ?zero⟩,
    State.construct_of_too_long cfg⟩
  case rom => exact State.writeBytes_memRead_same rom _ rfl (State.romEnd_le_memSize hrom) hj
  case font =>
    have hlt : 0x050 + 5 * d + j < 0x200 := by omega
    exact (State.constructed_memRead_outside_rom cfg hrom (Nat.lt_trans hlt (by decide)) (.inl hlt)).trans
      (Memory.resetByte_font _ hd hj)
  case zero =>
    have hside : a < 0x200 ∨ 0x200 + rom.length ≤ a := by omega
    exact (State.constructed_memRead_outside_rom cfg hrom ha hside).trans
      (Memory.resetByte_outside_font _ hfont)

end Sys2Proof.Machine

namespace Sys2Proof

/-! ### The words that the tables of function codes stand for (R93, R97) -/

theorem encode_of_mem_table0 : ∀ row ∈ table0, encode row.2 = formatNNN 0x0#4 row.1 := by
  decide

section FunctionCodeTables

variable (x y : RegIdx)

theorem encode_of_mem_table8 : ∀ row ∈ table8 x y, encode row.2 = formatXYN 0x8#4 x y row.1 := by
  simp [table8, encode]

theorem encode_of_mem_tableE : ∀ row ∈ tableE x, encode row.2 = formatXNN 0xE#4 x row.1 := by
  simp [tableE, encode]

theorem encode_of_mem_tableF : ∀ row ∈ tableF x, encode row.2 = formatXNN 0xF#4 x row.1 := by
  simp [tableF, encode]

end FunctionCodeTables

/-! ### A word is the format of its top nibble and its own fields -/

section FormatOfTop

variable {w : Word} {op : Nibble}

theorem formatNNN_of_top (htop : (fieldTop w).toNat = op.toNat) :
    formatNNN op (fieldNNN w) = w :=
  BitVec.eq_of_toNat_eq htop ▸ formatNNN_fields w

theorem formatXNN_of_top (htop : (fieldTop w).toNat = op.toNat) :
    formatXNN op (fieldX w) (fieldNN w) = w :=
  BitVec.eq_of_toNat_eq htop ▸ formatXNN_fields w

theorem formatXYN_of_top (htop : (fieldTop w).toNat = op.toNat) :
    formatXYN op (fieldX w) (fieldY w) (fieldN w) = w :=
  BitVec.eq_of_toNat_eq htop ▸ formatXYN_fields w

end FormatOfTop

/-! ### Decoding and encoding are inverse (R93, R97) -/

/-- Settles O8: in each family of the map, encoding puts back the top nibble and the fields that the decoder
cut from the word, and a table's function code is the field it was found by. -/
theorem encodeInvertsDecode : Obligations.EncodeInvertsDecode := by
  intro w i h
  obtain ⟨htop, row, hrow, hcode, rfl⟩ | ⟨htop, rfl⟩ | ⟨htop, rfl⟩ | ⟨htop, rfl⟩ | ⟨htop, rfl⟩ |
    ⟨htop, hn, rfl⟩ | ⟨htop, hn, rfl⟩ | ⟨htop, rfl⟩ | ⟨htop, rfl⟩ | ⟨htop, row, hrow, hcode, rfl⟩ |
    ⟨htop, rfl⟩ | ⟨htop, rfl⟩ | ⟨htop, rfl⟩ | ⟨htop, rfl⟩ | ⟨htop, row, hrow, hcode, rfl⟩ |
    ⟨htop, row, hrow, hcode, rfl⟩ := (exists_selected_row_iff w i).mp ((decodeWord_ok_iff w i).mp h)
  · rw [encode_of_mem_table0 row hrow, ← hcode, formatNNN_of_top htop]
  · exact formatNNN_of_top htop
  · exact formatNNN_of_top htop
  · exact formatXNN_of_top htop
  · exact formatXNN_of_top htop
  · rw [encode, ← hn, formatXYN_of_top htop]
  · rw [encode, ← hn, formatXYN_of_top htop]
  · exact formatXNN_of_top htop
  · exact formatXNN_of_top htop
  · rw [encode_of_mem_table8 _ _ row hrow, ← hcode, formatXYN_of_top htop]
  · exact formatNNN_of_top htop
  · exact formatNNN_of_top htop
  · exact formatXNN_of_top htop
  · exact formatXYN_of_top htop
  · rw [encode_of_mem_tableE _ row hrow, ← hcode, formatXNN_of_top htop]
  · rw [encode_of_mem_tableF _ row hrow, ← hcode, formatXNN_of_top htop]

/-- The case split is by secondary dispatch: whole words, none, on `n` and on `nn` (R95). -/
theorem decodeWord_encode (i : Instr) : decodeWord (encode i) = .ok i := by
  cases i with
  | cls | ret => rfl
  | jp | call | ldI | jpV0 | seImm | sneImm | ldImm | addImm | rnd | drw => simp [encode, decodeWord]
  | seReg | sneReg => simp [encode, decodeWord, decodeSkipReg]
  | ldReg | orReg | andReg | xorReg | addReg | sub | shr | subn | shl =>
    simp [encode, decodeWord, decodeFamily8]
  | skp | sknp => simp [encode, decodeWord, decodeFamilyE]
  | ldVxDt | ldDtVx | ldStVx | addIVx | ldVxK | ldFVx | ldBVx | ldMemVx | ldVxMem =>
    simp [encode, decodeWord, decodeFamilyF]

/-- Settles O7: the two bytes join to the encoded word again, and decoding it dispatches on the codes that
`encode` wrote (`decodeWord_encode`). -/
theorem decodeInvertsEncode : Obligations.DecodeInvertsEncode := by
  intro i rest
  simp only [encodeBytes, List.cons_append, List.nil_append, decode, wordOfBytes_bytes,
    decodeWord_encode]

/-- Settles O11: each of the ten words is decoded by evaluation. -/
theorem sampleWordsDecode : Obligations.SampleWordsDecode := by
  unfold Obligations.SampleWordsDecode
  decide

end Sys2Proof

namespace Sys2Proof.Machine

/-! ### What a step does with its next input (log 5) -/

theorem step_of_no_input {s : State} (h : s.agenda = []) : step s = cpuStep s := by
  unfold step takeInput
  rw [h]
  rfl

theorem step_of_event {s : State} {e : Event} {rest : List Input} (h : s.agenda = .event e :: rest) :
    step s = applyEvent e (s.setAgenda rest) := by
  unfold step takeInput
  rw [h]
  rfl

/-! ### What an instruction does after fetch (R120, R122, R128) -/

/-- Settles O12: the step is a CpuStep, and a CpuStep on a recognized word runs its meaning after fetch
(`cpuStep_ok`). -/
theorem stepRunsDecodedInstruction : Obligations.StepRunsDecodedInstruction := by
  intro s i hrun hpause hwait hd
  have hactive := State.cpuActive_eq_true hrun hpause hwait
  have hword := decode_pair_ok.mp hd
  refine ⟨fun hnone => ?_, fun rest hnext => ?_⟩
  · rw [step_of_no_input hnone, cpuStep_ok hactive hword]
    rfl
  · rw [step_of_event hnext]
    exact cpuStep_ok (s := s.setAgenda rest) hactive hword

/-- Settles O14: the jump overwrites the advanced pc with the pc of the step, and 1NNN writes the pc alone. -/
theorem selfJumpLeavesStateUnchanged : Obligations.SelfJumpLeavesStateUnchanged := by
  intro s nnn hrun hpause hwait hd htarget
  have hactive := State.cpuActive_eq_true hrun hpause hwait
  have hpc : zext16 nnn = s.pc := BitVec.eq_of_toNat_eq ((zext16_toNat nnn).trans htarget)
  calc applyEvent .cpuStep s
      = exec (.jp nnn) s.afterFetch := cpuStep_ok hactive (decode_pair_ok.mp hd)
    _ = .next (s.setPc (zext16 nnn)) := rfl
    _ = .next s := by rw [hpc]; rfl

/-! ### Every step answers a next state -/

theorem execRet_answers (s : State) : ∃ t, execRet s = .next t := by
  cases hpop : s.pop with
  | none => exact ⟨_, execRet_of_pop_none hpop⟩
  | some r => exact ⟨_, execRet_of_pop hpop⟩

theorem execCall_answers (nnn : Addr12) (s : State) : ∃ t, execCall nnn s = .next t := by
  cases hpush : s.push s.pc with
  | none => exact ⟨_, execCall_of_push_none hpush⟩
  | some u => exact ⟨_, execCall_of_push hpush⟩

/-- Only the meanings of 00EE and 2NNN branch, on the stack; every other one is a next state as written. -/
theorem exec_answers (i : Instr) (s : State) : ∃ t, exec i s = .next t := by
  cases i with
  | ret => exact execRet_answers s
  | call nnn => exact execCall_answers nnn s
  | _ => exact ⟨_, rfl⟩

theorem cpuStep_answers (s : State) : ∃ t, cpuStep s = .next t := by
  cases hactive : s.cpuActive with
  | false => exact ⟨s, cpuStep_idle hactive⟩
  | true =>
    cases hd : decodeWord s.fetchWord with
    | ok i => exact cpuStep_ok hactive hd ▸ exec_answers i s.afterFetch
    | error e => exact ⟨_, cpuStep_error hactive hd⟩

theorem applyEvent_answers (e : Event) (s : State) : ∃ t, applyEvent e s = .next t := by
  cases e with
  | cpuStep => exact cpuStep_answers s
  | _ => exact ⟨_, rfl⟩

theorem step_answers (s : State) : ∃ t, step s = .next t := by
  cases hagenda : s.agenda with
  | nil => exact step_of_no_input hagenda ▸ cpuStep_answers s
  | cons inp rest =>
    cases inp with
    | event e => exact step_of_event hagenda ▸ applyEvent_answers e (s.setAgenda rest)
    | iterate dt => exact ⟨_, step_of_iterate hagenda⟩

/-- Settles O15: a fatal error is a next state too, so instructions and steps always answer one. -/
theorem everyStepAnswersNextState : Obligations.EveryStepAnswersNextState :=
  ⟨exec_answers, step_answers⟩

/-! ### What a step does to memory and to the fault record, by way of its CPU step -/

/-- A key release changes nothing but the key bits. -/
theorem keyUp_frame (k : Byte) (s : State) : keyUp k s = { s with keys := (keyUp k s).keys } := by
  unfold keyUp
  split
  · exact s.setKey_frame k false
  · rfl

/-- Every event but a CpuStep leaves memory and the fault record alone. -/
theorem applyEvent_keeps_mem_fault {e : Event} {s t : State} (he : e ≠ .cpuStep)
    (h : applyEvent e s = .next t) : t.mem = s.mem ∧ t.fault = s.fault := by
  cases e with
  | cpuStep => exact absurd rfl he
  | timerTick => cases h; unfold timerTick; split <;> exact ⟨rfl, rfl⟩
  | keyDown k => cases h; rw [keyDown_frame]; exact ⟨rfl, rfl⟩
  | keyUp k => cases h; rw [keyUp_frame]; exact ⟨rfl, rfl⟩
  | pauseToggle => cases h; unfold pauseToggle; split <;> exact ⟨rfl, rfl⟩
  | quit => cases h; rw [quit_eq]; exact ⟨rfl, rfl⟩
  | present => cases h; unfold present; split <;> exact ⟨rfl, rfl⟩

theorem schedulerIteration_keeps_mem_fault (dt : Nat) (s : State) :
    (schedulerIteration dt s).mem = s.mem ∧ (schedulerIteration dt s).fault = s.fault := by
  unfold schedulerIteration
  split <;> exact ⟨rfl, rfl⟩

/-- A step is a CPU step with other inputs to come, or it leaves memory and the fault record alone. -/
theorem step_cpuStep_or_keeps {s t : State} (h : step s = .next t) :
    (∃ rest, cpuStep (s.setAgenda rest) = .next t) ∨ (t.mem = s.mem ∧ t.fault = s.fault) := by
  obtain ⟨_, hcpu⟩ | ⟨e, rest, _, hev⟩ | ⟨dt, rest, _, rfl⟩ := step_cases h
  · exact .inl ⟨s.agenda, hcpu⟩
  · by_cases he : e = .cpuStep
    · subst he
      exact .inl ⟨rest, hev⟩
    · exact .inr (applyEvent_keeps_mem_fault (s := s.setAgenda rest) he hev)
  · exact .inr (schedulerIteration_keeps_mem_fault dt (s.setAgenda rest))

/-! ### Every step keeps the canonical form of memory (log 22) -/

theorem State.storeDigits_wf {s : State} (hs : Memory.wf s.cfg.font s.mem = true) (v : Byte) :
    Memory.wf s.cfg.font (s.storeDigits v).mem = true :=
  State.memWrite_wf (State.memWrite_wf (State.memWrite_wf hs _ _) _ _) _ _

/-- FX33 and FX55 are the only instructions that can leave another memory. -/
theorem exec_mem {i : Instr} {s t : State} (h : exec i s = .next t) :
    (∃ x, i = .ldBVx x) ∨ (∃ x, i = .ldMemVx x) ∨ t.mem = s.mem := by
  cases exec_effect h with
  | memory m hi => exact hi.imp_right .inl
  | memoryIndex x m a hi hinc => exact .inr (.inl ⟨x, hi⟩)
  | _ => exact .inr (.inr rfl)

theorem exec_mem_wf {i : Instr} {s t : State} (hs : Memory.wf s.cfg.font s.mem = true)
    (h : exec i s = .next t) : Memory.wf s.cfg.font t.mem = true := by
  obtain ⟨x, rfl⟩ | ⟨x, rfl⟩ | hmem := exec_mem h
  · rw [exec_ldBVx] at h
    cases h
    exact State.storeDigits_wf hs _
  · rw [exec_ldMemVx] at h
    cases h
    have hstored := State.storeRegs_wf (s.effAddr 0) (x.toNat + 1) hs
    rwa [State.storeRegs_cfg] at hstored
  · rwa [hmem]

theorem cpuStep_mem_wf {s t : State} (hs : Memory.wf s.cfg.font s.mem = true)
    (h : cpuStep s = .next t) : Memory.wf s.cfg.font t.mem = true := by
  obtain ⟨_, rfl⟩ | ⟨_, i, _, hexec⟩ | ⟨_, _, rfl⟩ := cpuStep_cases h
  · exact hs
  · exact exec_mem_wf (s := s.afterFetch) hs hexec
  · exact hs

theorem step_mem_wf {s t : State} (hs : Memory.wf s.cfg.font s.mem = true) (h : step s = .next t) :
    Memory.wf s.cfg.font t.mem = true := by
  obtain ⟨rest, hcpu⟩ | ⟨hmem, _⟩ := step_cpuStep_or_keeps h
  · exact cpuStep_mem_wf (s := s.setAgenda rest) hs hcpu
  · rwa [hmem]

/-! ### The three fatal errors are the only ones (R240) -/

/-- An instruction leaves the fault record alone, or it is a 2NNN on a full stack, or a 00EE on an empty one. -/
theorem exec_fault_cases {i : Instr} {s t : State} (h : exec i s = .next t) :
    t.fault = s.fault ∨
    (∃ nnn, i = .call nnn ∧ s.sp.val = 64 ∧ t = s.raiseFatal .stackOverflow (encode (.call nnn))) ∨
    (i = .ret ∧ s.sp.val = 0 ∧ t = s.raiseFatal .stackUnderflow (encode .ret)) := by
  cases i with
  | ret =>
    cases hpop : s.pop with
    | none =>
      have hexec := (execRet_of_pop_none hpop).symm.trans h
      exact .inr (.inr ⟨rfl, State.pop_eq_none.mp hpop, (Host.Outcome.next.inj hexec).symm⟩)
    | some r =>
      obtain rfl := Host.Outcome.next.inj ((execRet_of_pop hpop).symm.trans h)
      obtain ⟨_, _, hu⟩ := State.pop_eq_some hpop
      simp [hu]
  | call nnn =>
    cases hpush : s.push s.pc with
    | none =>
      have hexec := (execCall_of_push_none hpush).symm.trans h
      exact .inr (.inl ⟨nnn, rfl, State.push_eq_none.mp hpush, (Host.Outcome.next.inj hexec).symm⟩)
    | some u =>
      obtain rfl := Host.Outcome.next.inj ((execCall_of_push hpush).symm.trans h)
      exact .inl (State.push_fault (t := u) hpush)
  | _ =>
    left
    cases exec_effect h with
    | fatal k w hi => simp [MayWriteStack] at hi
    | _ => rfl

/-- When a CPU step of the state takes the fatal error of a kind (R241, R242, R243). -/
def FatalCondition (s : State) : FatalKind → Prop
  | .unrecognizedOpcode => decodeWord s.fetchWord = .error (.unrecognizedOpcode s.fetchWord)
  | .stackOverflow => (∃ nnn, s.fetchWord = encode (.call nnn)) ∧ s.sp.val = 64
  | .stackUnderflow => s.fetchWord = encode .ret ∧ s.sp.val = 0

/-- A CPU step leaves the fault record alone or takes one of the three fatal errors. -/
theorem cpuStep_fault_cases {s t : State} (h : cpuStep s = .next t) :
    t.fault = s.fault ∨ (s.cpuActive = true ∧
      ∃ k, FatalCondition s k ∧ TookFatal t ⟨k, s.fetchWord, s.pc⟩) := by
  obtain ⟨_, rfl⟩ | ⟨hactive, i, hd, hexec⟩ | ⟨hactive, hd, rfl⟩ := cpuStep_cases h
  · exact .inl rfl
  · obtain hsame | ⟨nnn, rfl, hfull, rfl⟩ | ⟨rfl, hempty, rfl⟩ := exec_fault_cases hexec
    · exact .inl hsame
    · rw [encode_call_of_decodeWord hd]
      exact .inr ⟨hactive, .stackOverflow, ⟨⟨nnn, (encode_call_of_decodeWord hd).symm⟩, hfull⟩,
        afterFetch_raiseFatal_tookFatal ..⟩
    · rw [encode_ret_of_decodeWord hd]
      exact .inr ⟨hactive, .stackUnderflow, ⟨(encode_ret_of_decodeWord hd).symm, hempty⟩,
        afterFetch_raiseFatal_tookFatal ..⟩
  · exact .inr ⟨hactive, .unrecognizedOpcode, hd, afterFetch_raiseFatal_tookFatal ..⟩

theorem step_fault_cases {s t : State} (h : step s = .next t) :
    t.fault = s.fault ∨ (s.cpuActive = true ∧
      ∃ k, FatalCondition s k ∧ TookFatal t ⟨k, s.fetchWord, s.pc⟩) := by
  obtain ⟨rest, hcpu⟩ | ⟨_, hfault⟩ := step_cpuStep_or_keeps h
  · exact (cpuStep_fault_cases hcpu).imp id fun ⟨hactive, k, hk, htook⟩ =>
      ⟨hactive, k, by cases k <;> exact hk, htook⟩
  · exact .inl hfault

theorem State.flags_of_cpuActive {s : State} (h : s.cpuActive = true) :
    s.running = true ∧ s.paused = false ∧ s.waiting = false := by
  simpa only [State.cpuActive, Bool.and_eq_true, Bool.not_eq_true', and_assoc] using h

/-- Settles O20: a record that was not there before the step is that of one of the three errors
(`step_fault_cases`). -/
theorem onlyThreeFatalErrors : Obligations.OnlyThreeFatalErrors := by
  intro s t r hnone hstep hr
  obtain hsame | ⟨hactive, k, hk, hstop, hrecord⟩ := step_fault_cases hstep
  · simp [hsame, hnone] at hr
  · obtain rfl := Option.some.inj (hrecord.symm.trans hr)
    obtain ⟨hrun, hpause, hwait⟩ := State.flags_of_cpuActive hactive
    refine ⟨hrun, hpause, hwait, hstop, rfl, rfl, ?_⟩
    cases k with
    | unrecognizedOpcode => exact .inl ⟨rfl, hk⟩
    | stackOverflow => exact .inr (.inl ⟨rfl, hk⟩)
    | stackUnderflow => exact .inr (.inr ⟨rfl, hk⟩)

/-! ### Stopped is absorbing (R274, D25) -/

/-- A step of a machine that is not running only changes the list of inputs. -/
theorem step_of_not_running {s t : State} (hrun : s.running = false) (h : step s = .next t) :
    t = s.setAgenda t.agenda := by
  obtain ⟨_, hcpu⟩ | ⟨e, rest, _, hev⟩ | ⟨dt, rest, _, rfl⟩ := step_cases h
  · rw [cpuStep_idle (State.cpuActive_eq_false_iff.mpr (.inl hrun))] at hcpu
    cases hcpu
    rfl
  · rw [applyEvent_of_not_running e (s := s.setAgenda rest) hrun] at hev
    cases hev
    rfl
  · rw [schedulerIteration_of_frozen dt (s := s.setAgenda rest) (.inl hrun)]
    rfl

/-- Settles O22: no event acts on a machine that is not running (`applyEvent_of_not_running`), and a step takes
its input from the list. -/
theorem stoppedIsAbsorbing : Obligations.StoppedIsAbsorbing :=
  fun _ hrun => ⟨fun e => applyEvent_of_not_running e hrun, fun _ => step_of_not_running hrun⟩

/-- Settles O21: a machine with a record is Stopped by the invariant, and Stopped is absorbing. -/
theorem faultIsNeverCleared : Obligations.FaultIsNeverCleared := by
  intro s t r hinv hr hstep
  have hrun := hinv.faulted (by simp [hr])
  rw [step_of_not_running hrun hstep]
  exact ⟨hr, hrun⟩

/-! ### The invariant (R245, R246, log 22) -/

/-- Settles O4: reset lists no byte of memory and holds no record; its configuration is the default one. -/
theorem resetSatisfiesInvariant : Obligations.ResetSatisfiesInvariant where
  memory := State.reset_memory_wf
  config := by decide
  faulted := by simp [State.reset]

/-- After a step a machine with a record is Stopped: a Stopped one stays so, and a running one holds no record,
so the step took a fatal error. -/
theorem State.Inv.step_faulted {s t : State} (hinv : s.Inv) (h : step s = .next t)
    (hfault : t.fault.isSome = true) : t.running = false := by
  cases hrun : s.running with
  | false =>
    rw [step_of_not_running hrun h]
    exact hrun
  | true =>
    obtain hsame | ⟨_, _, _, hstop, _⟩ := step_fault_cases h
    · simp [hsame, hinv.fault_eq_none hrun] at hfault
    · exact hstop

/-- Settles O5: each clause is kept by the operations a step is made of. -/
theorem stepKeepsInvariant : Obligations.StepKeepsInvariant := by
  intro s t hinv h
  have hcfg := stepKeepsConfiguration s t h
  exact {
    memory := hcfg ▸ step_mem_wf hinv.memory h
    config := hcfg ▸ hinv.config
    faulted := hinv.step_faulted h }

/-- A constructed machine meets the invariant when its configuration is legal, with any inputs to come. -/
theorem construct_inv {cfg : Cfg} {rom : List Byte} {s : State} (inputs : List Input)
    (legal : cfg.wf = true) (made : State.construct cfg rom = .next s) : (s.setAgenda inputs).Inv := by
  obtain hlong | hfits := Nat.lt_or_ge Config.romMax rom.length
  · rw [State.construct_of_too_long cfg hlong] at made
    cases made
  · rw [State.construct_of_fits cfg hfits] at made
    cases made
    have hwf := State.writeBytes_wf rom (s := { State.reset with cfg := cfg }) Config.progStart rfl
    rw [State.writeBytes_frame]
    exact { memory := hwf, config := legal, faulted := by simp [State.reset] }

/-- Settles O6: construction establishes the invariant and every step keeps it. -/
theorem reachableStatesSatisfyInvariant : Obligations.ReachableStatesSatisfyInvariant := by
  intro s hs
  induction hs with
  | start inputs legal made => exact construct_inv inputs legal made
  | after _ stepped ih => exact stepKeepsInvariant _ _ ih stepped

/-! ### The outcome of a run (R245, D16) -/

theorem run_succ {s t : State} (n : Nat) (h : step s = .next t) : run (n + 1) s = run n t := by
  rw [run, h]

/-- The run of a machine that holds a record ends in that fatal error, whatever its length. -/
theorem run_of_fault (n : Nat) {s : State} {r : FatalRecord} (hinv : s.Inv) (hr : s.fault = some r) :
    run n s = .fault (.fatal r) := by
  induction n generalizing s with
  | zero => rw [run, State.conclude, hr]
  | succ n ih =>
    obtain ⟨t, hstep⟩ := step_answers s
    obtain ⟨htr, _⟩ := faultIsNeverCleared s t r hinv hr hstep
    rw [run_succ n hstep]
    exact ih (stepKeepsInvariant s t hinv hstep) htr

theorem SafeRun.fault_eq_none {n : Nat} {s : State} (hinv : s.Inv) (h : SafeRun n s) :
    s.fault = none := by
  obtain ⟨t, ht⟩ := h
  cases hr : s.fault with
  | none => rfl
  | some r =>
    rw [run_of_fault n hinv hr] at ht
    cases ht

/-- Settles O23: a run of no steps is safe unless a record is held, which no longer run would forget
(`run_of_fault`); a longer run is its first step and the run after it. -/
theorem safeRunsHaveSafePrefixes : Obligations.SafeRunsHaveSafePrefixes := by
  intro n
  induction n with
  | zero =>
    intro s hinv hsafe
    exact ⟨s, by rw [run, State.conclude, hsafe.fault_eq_none hinv]⟩
  | succ n ih =>
    intro s hinv hsafe
    obtain ⟨t, hstep⟩ := step_answers s
    rw [SafeRun, run_succ _ hstep] at hsafe ⊢
    exact ih t (stepKeepsInvariant s t hinv hstep) hsafe

/-! ### A store is seen by the next fetch (R75) -/

theorem State.memRead_congr (s : State) {a b : Nat} (h : a % Config.memSize = b % Config.memSize) :
    s.memRead a = s.memRead b := by
  rw [← s.memRead_mod a, h, s.memRead_mod b]

/-- The two halves of the fetched word are two reads, so what every read sees of a store, the fetch sees. -/
theorem fetchSeesStore_of_memRead {s t : State} {n : Nat} {b : Nat → Byte}
    (hstored : ∀ k, k < n → t.memRead (s.effAddr k) = b k)
    (hkept : ∀ a, (∀ k, k < n → a % 4096 ≠ s.effAddr k % 4096) → t.memRead a = s.memRead a) :
    FetchSeesStore s t n b := by
  unfold FetchSeesStore
  simp only [State.fetchWord, highByte_wordOfBytes, lowByte_wordOfBytes]
  exact ⟨fun k hk hmeets => (t.memRead_congr hmeets).trans (hstored k hk),
    fun k hk hmeets => (t.memRead_congr hmeets).trans (hstored k hk), hkept _, hkept _⟩

/-- Settles O40: what FX33 and FX55 leave at every address is known (`State.storeDigits_memRead_same`,
`registersAreStored`), and a fetch is two reads. -/
theorem storedBytesAreFetched : Obligations.StoredBytesAreFetched := by
  intro x s hs
  constructor
  · exact ⟨_, exec_ldBVx x s, rfl, fetchSeesStore_of_memRead
      (fun _ => State.storeDigits_memRead_same hs _) fun _ => s.storeDigits_memRead_other _⟩
  · obtain ⟨t, hexec, hstored, hkept, _, _, _, hframe⟩ := registersAreStored x s hs
    refine ⟨t, hexec, by rw [hframe], fetchSeesStore_of_memRead (fun k hk => ?_) fun a ha => ?_⟩
    · exact hstored k (Nat.le_of_lt_succ hk)
    · exact hkept a fun k hk => ha k (Nat.lt_succ_of_le hk)

/-! ### The row modulus of DXYN (R213, D7) -/

namespace State

/-- The state with another row modulus in its configuration. -/
def setDrawYMod (s : State) (m : RowModulus) : State := { s with cfg := { s.cfg with drawYMod := m } }

theorem drawRows_setDrawYMod (s : State) (m : RowModulus) (base x0 y0 n : Nat) (acc : Display × Bool) :
    (s.setDrawYMod m).drawRows base x0 y0 n acc = s.drawRows base x0 y0 n acc := by
  induction n with
  | zero => rfl
  | succ n ih =>
    simp only [drawRows, ih]
    rfl

/-- From given start coordinates, drawing does not look at the row modulus. -/
theorem drawSprite_setDrawYMod (s : State) (m : RowModulus) (x0 y0 n : Nat) :
    (s.setDrawYMod m).drawSprite x0 y0 n = (s.drawSprite x0 y0 n).setDrawYMod m := by
  simp only [drawSprite, drawnSprite, drawRows_setDrawYMod]
  rfl

end State

/-- DXYN under another row modulus: the start row alone depends on it. -/
theorem exec_drw_setDrawYMod (x : RegIdx) {y : RegIdx} (n : Nibble) {s : State} {m : RowModulus}
    {y0 : Nat} (hy0 : (s.readV y).toNat % m.toNat = y0) :
    exec (.drw x y n) (s.setDrawYMod m) =
      .next ((s.drawSprite (s.drawX x) y0 n.toNat).setDrawYMod m) := by
  subst hy0
  exact (exec_drw ..).trans (congrArg Host.Outcome.next (s.drawSprite_setDrawYMod ..))

/-- A sprite that starts below the screen has no pixel on it. -/
theorem not_spritePixelOn_of_below_screen (s : State) (x0 n row col : Nat) {y0 : Nat} (h : 32 ≤ y0) :
    ¬SpritePixelOn s x0 y0 n row col := by
  rintro ⟨hrow, _, hy, _⟩
  omega

/-- Settles O44: a start row below 32 is its own remainder modulo 32, and drawing looks at the modulus for the
start row only (`exec_drw_setDrawYMod`); from row 32 on the sprite has no pixel on the screen. -/
theorem rowModulusMattersOnlyBelowScreen : Obligations.RowModulusMattersOnlyBelowScreen := by
  intro x y n s
  constructor
  · intro hrow
    have hsame : (s.readV y).toNat % 32 = (s.readV y).toNat % 64 := by omega
    exact ⟨_, exec_drw_setDrawYMod x n (m := .mod64) rfl, exec_drw_setDrawYMod x n (m := .mod32) hsame⟩
  · intro hmod hbelow
    have hy0 : (s.readV y).toNat % 64 = (s.readV y).toNat % s.cfg.drawYMod.toNat := by
      rw [hmod]
      rfl
    have hoff := fun row col =>
      not_spritePixelOn_of_below_screen s ((s.readV x).toNat % 64) n.toNat row col hbelow
    obtain ⟨t, hexec, _, hkept, _, hmiss, hredraw, _⟩ := drawFlipsSpritePixels x y n s _ _ rfl hy0
    exact ⟨t, hexec, Display.ext_of_pixel fun row col => hkept row col (hoff row col),
      hmiss fun row col hon => absurd hon (hoff row col), hredraw⟩

/-! ### Timer ticks and Present (R253, R260) -/

/-- Settles O51: a tick that is not gated counts both timers down (`timerTick_of_active`, `countDown_toNat`). -/
theorem timerTickCountsDown : Obligations.TimerTickCountsDown := by
  intro s
  refine ⟨fun hfrozen => congrArg Host.Outcome.next (timerTick_of_frozen hfrozen),
    fun hrun hpause => ⟨_, congrArg Host.Outcome.next (timerTick_of_active hrun hpause), ?_⟩⟩
  exact ⟨countDown_toNat s.dt, countDown_toNat s.st, rfl⟩

theorem State.presents_eq_true {s : State} (hrun : s.running = true) (hredraw : s.needsRedraw = true) :
    s.presents = true := by
  simp [State.presents, hrun, hredraw]

theorem State.presents_eq_false {s : State} (h : s.running = false ∨ s.needsRedraw = false) :
    s.presents = false := by
  simpa [State.presents, imp_iff_not_or] using h

/-- Settles O54: what the sink receives and what becomes of the request are decided by one test. -/
theorem presentHandsOverTheGrid : Obligations.PresentHandsOverTheGrid := by
  intro s
  refine ⟨fun hrun hredraw => ?_, fun hidle => ?_⟩
  · have hpresents := State.presents_eq_true hrun hredraw
    exact ⟨if_pos hpresents, congrArg Host.Outcome.next (if_pos hpresents)⟩
  · have hpresents := Bool.eq_false_iff.mp (State.presents_eq_false hidle)
    exact ⟨if_neg hpresents, congrArg Host.Outcome.next (if_neg hpresents)⟩

/-! ### The decided values of reset (R43, D12) -/

/-- Settles O2: the reset state is written out, so each value is read off. -/
theorem resetLeavesDecidedValues : Obligations.ResetLeavesDecidedValues :=
  ⟨rfl, rfl, rfl, rfl, rfl, rfl, rfl, rfl, rfl, rfl, rfl⟩

end Sys2Proof.Machine
